-- ==== Sys2Proof/Word.lean ====
section
/-!
DEFINITION. The word types of the machine (00_scope.md R6, R11): bytes, 16-bit words, and the fields of an
instruction word. Every value is unsigned.
-/

namespace Sys2Proof

/-- An 8-bit value: a V register, a timer, a memory byte, the key latch (R6). -/
abbrev Byte := BitVec 8

/-- A 16-bit value: I, pc, a stack entry, an instruction word (R6). -/
abbrev Word := BitVec 16

/-- The 4-bit fields x and y: the index of one of the sixteen V registers (R30, R81). -/
abbrev RegIdx := BitVec 4

/-- The 4-bit field n: the row count of Dxyn (R81, R82). -/
abbrev Nibble := BitVec 4

/-- The 12-bit field nnn: an immediate address (R81, R82). -/
abbrev Addr12 := BitVec 12

/-- The index of VF, the register that is also the flag (R31, R32). -/
abbrev vF : RegIdx := 0xF#4

end Sys2Proof
end

