-- ==== Sys2Proof/Syntax.lean ====
section
/-!
DEFINITION. The instructions: one constructor per row of spec/opcode_table.json, in the table's order
(30_encoding.md R85). The fields are the fields of R81 at their own widths, so no term is out of range.
-/

namespace Sys2Proof

/-- The 28 instructions this core dispatches (30_encoding.md R85). -/
inductive Instr where
  /-- 00E0, `CLS` (R150). -/
  | cls
  /-- 00EE, `RET` (R110). -/
  | ret
  /-- 1nnn, `JP nnn` (R111). -/
  | jp (nnn : Addr12)
  /-- 2nnn, `CALL nnn` (R112). -/
  | call (nnn : Addr12)
  /-- 3xkk, `SE Vx, kk` (R113). -/
  | seVxKk (x : RegIdx) (kk : Byte)
  /-- 4xkk, `SNE Vx, kk` (R114). -/
  | sneVxKk (x : RegIdx) (kk : Byte)
  /-- 6xkk, `LD Vx, kk` (R120). -/
  | ldVxKk (x : RegIdx) (kk : Byte)
  /-- 7xkk, `ADD Vx, kk` (R121). -/
  | addVxKk (x : RegIdx) (kk : Byte)
  /-- 8xy0, `LD Vx, Vy` (R122). -/
  | ldVxVy (x y : RegIdx)
  /-- 8xy2, `AND Vx, Vy` (R123). -/
  | andVxVy (x y : RegIdx)
  /-- 8xy3, `XOR Vx, Vy` (R124). -/
  | xorVxVy (x y : RegIdx)
  /-- 8xy4, `ADD Vx, Vy` (R127). -/
  | addVxVy (x y : RegIdx)
  /-- 8xy5, `SUB Vx, Vy` (R128). -/
  | subVxVy (x y : RegIdx)
  /-- 8xy6, `SHR Vx` (R129). The field y is encoded and ignored; it is kept so that no bit of the word is lost. -/
  | shrVx (x y : RegIdx)
  /-- Annn, `LD I, nnn` (R140). -/
  | ldINnn (nnn : Addr12)
  /-- Cxkk, `RND Vx, kk` (R130). -/
  | rndVxKk (x : RegIdx) (kk : Byte)
  /-- Dxyn, `DRW Vx, Vy, n` (R151). -/
  | drw (x y : RegIdx) (n : Nibble)
  /-- Ex9E, `SKP Vx` (R160). -/
  | skp (x : RegIdx)
  /-- ExA1, `SKNP Vx` (R161). -/
  | sknp (x : RegIdx)
  /-- Fx07, `LD Vx, DT` (R162). -/
  | ldVxDt (x : RegIdx)
  /-- Fx0A, `LD Vx, K` (R163). -/
  | ldVxK (x : RegIdx)
  /-- Fx15, `LD DT, Vx` (R164). -/
  | ldDtVx (x : RegIdx)
  /-- Fx18, `LD ST, Vx` (R165). -/
  | ldStVx (x : RegIdx)
  /-- Fx1E, `ADD I, Vx` (R141). -/
  | addIVx (x : RegIdx)
  /-- Fx29, `LD F, Vx` (R142). -/
  | ldFVx (x : RegIdx)
  /-- Fx33, `LD B, Vx` (R143). -/
  | ldBVx (x : RegIdx)
  /-- Fx55, `LD [I], Vx` (R144). -/
  | ldMemVx (x : RegIdx)
  /-- Fx65, `LD Vx, [I]` (R145). -/
  | ldVxMem (x : RegIdx)
  deriving DecidableEq, Repr

end Sys2Proof
end

