-- ==== Sys2Proof/Decode.lean ====
section
/-!
DEFINITION. From bytes and words to instructions (30_encoding.md R80 to R88), the encoder written from the same
rows, and the opcode map R85 as data.
-/

namespace Sys2Proof

/-! ### The fields of a word (R81, R83) -/

/-- `first = w[15:12]`, the opcode family. -/
def fieldFirst (w : Word) : BitVec 4 := w.extractLsb' 12 4
/-- `x = w[11:8]`. -/
def fieldX (w : Word) : RegIdx := w.extractLsb' 8 4
/-- `y = w[7:4]`. -/
def fieldY (w : Word) : RegIdx := w.extractLsb' 4 4
/-- `n = w[3:0]`. -/
def fieldN (w : Word) : Nibble := w.extractLsb' 0 4
/-- `kk = w[7:0]`. -/
def fieldKk (w : Word) : Byte := w.extractLsb' 0 8
/-- `nnn = w[11:0]`. -/
def fieldNnn (w : Word) : Addr12 := w.extractLsb' 0 12

/-- The instruction word of two consecutive bytes, most significant first (20_memory.md R64). -/
def wordOfBytes (hi lo : Byte) : Word := (hi.zeroExtend 16 <<< 8) ||| lo.zeroExtend 16

/-- The byte of a word at the lower address (R64). -/
def highByte (w : Word) : Byte := w.extractLsb' 8 8

/-- The byte of a word at the higher address (R64). -/
def lowByte (w : Word) : Byte := w.extractLsb' 0 8

/-! ### Dispatch (R84, R85, R87) -/

/-- Family 0 selects on the whole word (R84; spec decision D4, log 13). -/
def decodeFamily0 (w : Word) : Option Instr :=
  if w = 0x00E0#16 then some .cls
  else if w = 0x00EE#16 then some .ret
  else none

/-- Family 8 selects on n (R84). The forms 8xy1, 8xy7 and 8xyE are not in the table (R87, R131). -/
def decodeFamily8 (w : Word) : Option Instr :=
  if fieldN w = 0x0#4 then some (.ldVxVy (fieldX w) (fieldY w))
  else if fieldN w = 0x2#4 then some (.andVxVy (fieldX w) (fieldY w))
  else if fieldN w = 0x3#4 then some (.xorVxVy (fieldX w) (fieldY w))
  else if fieldN w = 0x4#4 then some (.addVxVy (fieldX w) (fieldY w))
  else if fieldN w = 0x5#4 then some (.subVxVy (fieldX w) (fieldY w))
  else if fieldN w = 0x6#4 then some (.shrVx (fieldX w) (fieldY w))
  else none

/-- Family E selects on kk (R84). -/
def decodeFamilyE (w : Word) : Option Instr :=
  if fieldKk w = 0x9E#8 then some (.skp (fieldX w))
  else if fieldKk w = 0xA1#8 then some (.sknp (fieldX w))
  else none

/-- Family F selects on kk (R84). -/
def decodeFamilyF (w : Word) : Option Instr :=
  if fieldKk w = 0x07#8 then some (.ldVxDt (fieldX w))
  else if fieldKk w = 0x0A#8 then some (.ldVxK (fieldX w))
  else if fieldKk w = 0x15#8 then some (.ldDtVx (fieldX w))
  else if fieldKk w = 0x18#8 then some (.ldStVx (fieldX w))
  else if fieldKk w = 0x1E#8 then some (.addIVx (fieldX w))
  else if fieldKk w = 0x29#8 then some (.ldFVx (fieldX w))
  else if fieldKk w = 0x33#8 then some (.ldBVx (fieldX w))
  else if fieldKk w = 0x55#8 then some (.ldMemVx (fieldX w))
  else if fieldKk w = 0x65#8 then some (.ldVxMem (fieldX w))
  else none

/-- The one row of the opcode map that a word matches, with its operands, or `none` where no row matches (R84,
R85, R86). Families 5, 9 and B select nothing (R84). Total on every 16-bit word (R83). -/
def decodeWord (w : Word) : Option Instr :=
  if fieldFirst w = 0x0#4 then decodeFamily0 w
  else if fieldFirst w = 0x1#4 then some (.jp (fieldNnn w))
  else if fieldFirst w = 0x2#4 then some (.call (fieldNnn w))
  else if fieldFirst w = 0x3#4 then some (.seVxKk (fieldX w) (fieldKk w))
  else if fieldFirst w = 0x4#4 then some (.sneVxKk (fieldX w) (fieldKk w))
  else if fieldFirst w = 0x6#4 then some (.ldVxKk (fieldX w) (fieldKk w))
  else if fieldFirst w = 0x7#4 then some (.addVxKk (fieldX w) (fieldKk w))
  else if fieldFirst w = 0x8#4 then decodeFamily8 w
  else if fieldFirst w = 0xA#4 then some (.ldINnn (fieldNnn w))
  else if fieldFirst w = 0xC#4 then some (.rndVxKk (fieldX w) (fieldKk w))
  else if fieldFirst w = 0xD#4 then some (.drw (fieldX w) (fieldY w) (fieldN w))
  else if fieldFirst w = 0xE#4 then decodeFamilyE w
  else if fieldFirst w = 0xF#4 then decodeFamilyF w
  else none

/-- Why a byte sequence holds no instruction. -/
inductive DecodeError where
  /-- Fewer than the two bytes of an instruction (R80). -/
  | tooShort
  /-- The word matches no row of the opcode map (R87). -/
  | unknownWord (raw : Word)
  deriving DecidableEq, Repr

/-- Reads one instruction off a byte sequence, total on any bytes: the instruction and the bytes after it, or the
reason there is none (R80, R87, R89). -/
def decodeBytes : List Byte → Except DecodeError (Instr × List Byte)
  | hi :: lo :: rest =>
    match decodeWord (wordOfBytes hi lo) with
    | some i => .ok (i, rest)
    | none => .error (.unknownWord (wordOfBytes hi lo))
  | _ => .error .tooShort

/-- The two bytes of a table word, in the order the hardware stores them: the low 16 of the `nbits` bits of `w`,
most significant byte first (R64, R80). -/
def tableBytes (nbits w : Nat) : List Byte :=
  let word : Word := BitVec.ofNat 16 (w % 2 ^ nbits)
  [highByte word, lowByte word]

/-- The instruction the decoder reads from an instruction whose bits are `w`, numbered as spec/opcode_table.json
numbers them (bit 0 is the least significant bit of the 16-bit word). -/
def decodeTableWord (nbits w : Nat) : Option Instr :=
  match decodeBytes (tableBytes nbits w) with
  | .ok (i, _) => some i
  | .error _ => none

/-! ### The encoder (R81, R82, R85) -/

/-- The shape F-nnn of R81. -/
def packNnn (family : BitVec 4) (nnn : Addr12) : Word := family ++ nnn
/-- The shape F-x-kk of R81. -/
def packXKk (family : BitVec 4) (x : RegIdx) (kk : Byte) : Word := family ++ x ++ kk
/-- The shape F-x-y-n of R81. -/
def packXYN (family : BitVec 4) (x y : RegIdx) (n : Nibble) : Word := family ++ x ++ y ++ n

/-- The word of an instruction, row by row of R85. -/
def encode : Instr → Word
  | .cls => 0x00E0#16
  | .ret => 0x00EE#16
  | .jp nnn => packNnn 0x1#4 nnn
  | .call nnn => packNnn 0x2#4 nnn
  | .seVxKk x kk => packXKk 0x3#4 x kk
  | .sneVxKk x kk => packXKk 0x4#4 x kk
  | .ldVxKk x kk => packXKk 0x6#4 x kk
  | .addVxKk x kk => packXKk 0x7#4 x kk
  | .ldVxVy x y => packXYN 0x8#4 x y 0x0#4
  | .andVxVy x y => packXYN 0x8#4 x y 0x2#4
  | .xorVxVy x y => packXYN 0x8#4 x y 0x3#4
  | .addVxVy x y => packXYN 0x8#4 x y 0x4#4
  | .subVxVy x y => packXYN 0x8#4 x y 0x5#4
  | .shrVx x y => packXYN 0x8#4 x y 0x6#4
  | .ldINnn nnn => packNnn 0xA#4 nnn
  | .rndVxKk x kk => packXKk 0xC#4 x kk
  | .drw x y n => packXYN 0xD#4 x y n
  | .skp x => packXKk 0xE#4 x 0x9E#8
  | .sknp x => packXKk 0xE#4 x 0xA1#8
  | .ldVxDt x => packXKk 0xF#4 x 0x07#8
  | .ldVxK x => packXKk 0xF#4 x 0x0A#8
  | .ldDtVx x => packXKk 0xF#4 x 0x15#8
  | .ldStVx x => packXKk 0xF#4 x 0x18#8
  | .addIVx x => packXKk 0xF#4 x 0x1E#8
  | .ldFVx x => packXKk 0xF#4 x 0x29#8
  | .ldBVx x => packXKk 0xF#4 x 0x33#8
  | .ldMemVx x => packXKk 0xF#4 x 0x55#8
  | .ldVxMem x => packXKk 0xF#4 x 0x65#8

/-- The two bytes of an instruction as memory holds them, most significant first (R64, R80). -/
def encodeBytes (i : Instr) : List Byte := [highByte (encode i), lowByte (encode i)]

/-! ### The encoding lines of the instruction rules (41_flow.md to 45_keys_timers.md) -/

/-- `base | nnn`, as the rules write it. -/
def wordNnn (base : Word) (nnn : Addr12) : Word := base ||| nnn.zeroExtend 16
/-- `base | x<<8 | kk`, as the rules write it. -/
def wordXKk (base : Word) (x : RegIdx) (kk : Byte) : Word := base ||| (x.zeroExtend 16 <<< 8) ||| kk.zeroExtend 16
/-- `base | x<<8`, as the rules write it. -/
def wordX (base : Word) (x : RegIdx) : Word := base ||| (x.zeroExtend 16 <<< 8)
/-- `base | x<<8 | y<<4`, as the rules write it. -/
def wordXY (base : Word) (x y : RegIdx) : Word := base ||| (x.zeroExtend 16 <<< 8) ||| (y.zeroExtend 16 <<< 4)
/-- `base | x<<8 | y<<4 | n`, as the rules write it. -/
def wordXYN (base : Word) (x y : RegIdx) (n : Nibble) : Word :=
  base ||| (x.zeroExtend 16 <<< 8) ||| (y.zeroExtend 16 <<< 4) ||| n.zeroExtend 16

/-! ### The opcode map as data (R85) -/

/-- One row of the opcode map: a word matches when `w &&& mask = pattern` (R85). -/
structure OpcodeRow where
  pattern : Word
  mask : Word
  deriving DecidableEq, Repr

/-- A word matches a row (R85). -/
def matchesRow (w : Word) (r : OpcodeRow) : Bool := (w &&& r.mask) == r.pattern

/-- The 28 rows, in the table's order (R85). -/
def opcodeMap : List OpcodeRow :=
  [⟨0x00E0#16, 0xFFFF#16⟩, ⟨0x00EE#16, 0xFFFF#16⟩, ⟨0x1000#16, 0xF000#16⟩, ⟨0x2000#16, 0xF000#16⟩, ⟨0x3000#16, 0xF000#16⟩,
   ⟨0x4000#16, 0xF000#16⟩, ⟨0x6000#16, 0xF000#16⟩, ⟨0x7000#16, 0xF000#16⟩, ⟨0x8000#16, 0xF00F#16⟩, ⟨0x8002#16, 0xF00F#16⟩] ++
  [⟨0x8003#16, 0xF00F#16⟩, ⟨0x8004#16, 0xF00F#16⟩, ⟨0x8005#16, 0xF00F#16⟩, ⟨0x8006#16, 0xF00F#16⟩, ⟨0xA000#16, 0xF000#16⟩,
   ⟨0xC000#16, 0xF000#16⟩, ⟨0xD000#16, 0xF000#16⟩, ⟨0xE09E#16, 0xF0FF#16⟩, ⟨0xE0A1#16, 0xF0FF#16⟩] ++
  [⟨0xF007#16, 0xF0FF#16⟩, ⟨0xF00A#16, 0xF0FF#16⟩, ⟨0xF015#16, 0xF0FF#16⟩, ⟨0xF018#16, 0xF0FF#16⟩, ⟨0xF01E#16, 0xF0FF#16⟩,
   ⟨0xF029#16, 0xF0FF#16⟩, ⟨0xF033#16, 0xF0FF#16⟩, ⟨0xF055#16, 0xF0FF#16⟩, ⟨0xF065#16, 0xF0FF#16⟩]

/-- The number of an instruction's row in the opcode map, counted from 0. -/
def rowNumber : Instr → Nat
  | .cls => 0
  | .ret => 1
  | .jp _ => 2
  | .call _ => 3
  | .seVxKk _ _ => 4
  | .sneVxKk _ _ => 5
  | .ldVxKk _ _ => 6
  | .addVxKk _ _ => 7
  | .ldVxVy _ _ => 8
  | .andVxVy _ _ => 9
  | .xorVxVy _ _ => 10
  | .addVxVy _ _ => 11
  | .subVxVy _ _ => 12
  | .shrVx _ _ => 13
  | .ldINnn _ => 14
  | .rndVxKk _ _ => 15
  | .drw _ _ _ => 16
  | .skp _ => 17
  | .sknp _ => 18
  | .ldVxDt _ => 19
  | .ldVxK _ => 20
  | .ldDtVx _ => 21
  | .ldStVx _ => 22
  | .addIVx _ => 23
  | .ldFVx _ => 24
  | .ldBVx _ => 25
  | .ldMemVx _ => 26
  | .ldVxMem _ => 27

/-- The row of an instruction (R85). -/
def rowOf (i : Instr) : OpcodeRow := opcodeMap.getD (rowNumber i) ⟨0x0000, 0x0000⟩

end Sys2Proof
end

