-- ==== Sys2Proof/Config.lean ====
section
/-!
DEFINITION. What a machine fixes for its life (the four parameters of 00_scope.md R7) and the free values: the
values the spec leaves open, as constants with no body, of which nothing can be proved.
-/

namespace Sys2Proof

/-- The parameter VF_OPERAND_READ (42_alu.md R126): what 8xy5, 8xy6 and Dxyn read when x or y names VF. -/
inductive VfOperandRead where
  /-- Each statement reads the registers as the statement before left them (the spec's default). -/
  | sequential
  /-- Every operand register is read once, before the instruction writes anything. -/
  | snapshot
  deriving DecidableEq, Repr

/-- The named parameters of 00_scope.md R7 other than the random draw. They never change while a machine lives
(60_exceptions.md R185), and a statement about every state holds for every value of them. -/
structure Config where
  displayWidth : Nat
  displayHeight : Nat
  fontImage : List Byte
  vfOperandRead : VfOperandRead
  deriving DecidableEq, Repr

/-- The standard CHIP-8 font, 16 glyphs of 5 bytes (93_implementation_defined.md G1).
Mark: DESIGN CHOICE, the spec's default of FONT_IMAGE, from general knowledge (log 7). -/
def Config.standardFont : List Byte :=
  [0xF0, 0x90, 0x90, 0x90, 0xF0,  0x20, 0x60, 0x20, 0x20, 0x70,
   0xF0, 0x10, 0xF0, 0x80, 0xF0,  0xF0, 0x10, 0xF0, 0x10, 0xF0] ++
  [0x90, 0x90, 0xF0, 0x10, 0x10,  0xF0, 0x80, 0xF0, 0x10, 0xF0,
   0xF0, 0x80, 0xF0, 0x90, 0xF0,  0xF0, 0x10, 0x20, 0x40, 0x40] ++
  [0xF0, 0x90, 0xF0, 0x90, 0xF0,  0xF0, 0x90, 0xF0, 0x10, 0xF0,
   0xF0, 0x90, 0xF0, 0x90, 0x90,  0xE0, 0x90, 0xE0, 0x90, 0xE0] ++
  [0xF0, 0x80, 0x80, 0x80, 0xF0,  0xE0, 0x90, 0x90, 0x90, 0xE0,
   0xF0, 0x80, 0xF0, 0x80, 0xF0,  0xF0, 0x80, 0xF0, 0x80, 0x80]

/-- The spec's defaults of the parameters (R7). Mark: DESIGN CHOICE (logs 6, 7, 8). -/
def Config.default : Config where
  displayWidth := 64
  displayHeight := 32
  fontImage := Config.standardFont
  vfOperandRead := .sequential

/-- FREE VALUE. The byte that the `k`-th draw of the random source gives (60_exceptions.md R190): no law, no
value. `k` is `State.draws`, which every draw advances (log 3). -/
opaque Config.randomByte : Nat → Byte

/-- FREE VALUE. Whether effect number `j` of an instruction that faulted part-way is present in the halted state
(60_exceptions.md R176), for the `k`-th free choice of the machine (log 4). -/
opaque Config.survives : Nat → Nat → Bool

/-- FREE VALUE. The audio level from power-on until the first tick (10_state.md R44; log 5). -/
opaque Config.audioAtPowerOn : Bool

end Sys2Proof
end

