-- ==== Sys2Proof/Machine/State.lean ====
section
/-!
DEFINITION. The machine's state as plain data, the reasons a step can stop, and the state after reset
(10_state.md, 60_exceptions.md R170, 70_reset_and_hazards.md R200, R201).
-/

namespace Sys2Proof.Machine

/-- Memory as the list of (address, byte) pairs, addresses strictly rising, that differ from what an unlisted
address reads as (`unlisted` in Machine/Ops.lean; `Memory.wf` says the form holds). -/
abbrev Memory := List Host.Cell

/-- The display bitmap as the list of the pixels (x, y) that are on, in row-major order (10_state.md R42;
`Bitmap.wf` says the form holds). -/
abbrev Bitmap := List (Nat × Nat)

/-- The devices that a host initialises before it constructs a machine (00_scope.md R10, 60_exceptions.md R187). -/
inductive Device where
  | display
  | keyboard
  | audio
  deriving DecidableEq, Repr

/-- What a memory access is for (20_memory.md R63). -/
inductive Access where
  | fetch
  | read
  | write
  deriving DecidableEq, Repr

/-- The kind and info of a fault record (60_exceptions.md R170). -/
inductive FaultKind where
  /-- Dispatch found no row for the word `raw` (R171). -/
  | unknownInstruction (raw : Word)
  /-- An access at `addr`, the first address above 0xFFF (R172). -/
  | memoryOutOfRange (addr : Nat) (access : Access)
  /-- 2nnn with the stack full (R173). -/
  | stackOverflow (sp : Byte)
  /-- 00EE with the stack empty (R174). -/
  | stackUnderflow (sp : Byte)
  deriving DecidableEq, Repr

/-- The fault record `{code, kind, info, pc}` (R170). `kind` holds kind and info; the code is a function of the
kind (`FaultKind.code`), so it is not stored a second time. `pc` is the address of the faulting instruction. -/
structure FaultRecord where
  kind : FaultKind
  pc : Word
  deriving DecidableEq, Repr

/-- Every piece of state 10_state.md §1 names, and two fields of the model's own: `cfg`, the spec's parameters
(00_scope.md R7), which never change, and `draws`, the number of free values taken so far (log 3). -/
structure State where
  /-- V0..VF (R30, R31). -/
  v : Vector Byte 16
  /-- The index register I (R33). -/
  iReg : Word
  /-- The program counter (R34). -/
  pc : Word
  /-- The number of stack entries in use (R36). -/
  sp : Byte
  /-- The return-address stack (R37). -/
  stack : Vector Word 16
  /-- The delay timer DT (R38). -/
  dt : Byte
  /-- The sound timer ST (R38). -/
  st : Byte
  /-- The fault latch: the machine is halted while it holds a record (R40). -/
  faultLatch : Option FaultRecord
  /-- The 4096-byte memory (R60). -/
  mem : Memory
  /-- The Display device's bitmap (R42). -/
  display : Bitmap
  /-- The Keyboard device's latch, 0 for no key (R43). -/
  keyLatch : Byte
  /-- The Audio device's level, true for on (R44). -/
  audio : Bool
  /-- The machine's parameters (R7). -/
  cfg : Config
  /-- How many free values (random bytes, choices of partial effects) the machine has taken (log 3). -/
  draws : Nat
  deriving DecidableEq, Repr

/-- The faults of 60_exceptions.md R170: each ends the step, halts the machine and hands its record to the host.
`halted` is the state the machine is left in, its record latched in `halted.faultLatch` (R40, R176; log 1). All four
are safe: the model stops where the spec says the machine stops. -/
inductive Fault where
  /-- Code 1, raised by the step when dispatch matches no row (R103, R171). Safe. -/
  | unknownInstruction (raw : Word) (halted : State)
  /-- Code 2, raised by the fetch and by Dxyn, Fx33, Fx55, Fx65 at an address above 0xFFF (R63, R101, R172). Safe. -/
  | memoryOutOfRange (addr : Nat) (access : Access) (halted : State)
  /-- Code 3, raised by 2nnn when sp is 16 (R173). Safe. -/
  | stackOverflow (sp : Byte) (halted : State)
  /-- Code 4, raised by 00EE when sp is 0 (R174). Safe. -/
  | stackUnderflow (sp : Byte) (halted : State)
  deriving DecidableEq, Repr

/-- What the model gives no meaning to. -/
inductive Refusal where
  /-- An instruction whose meaning is not written yet, raised by an arm of `exec`. Safe. -/
  | notModelled (mnemonic : String)
  /-- `step()` on a machine that holds a fault (40_dispatch.md R105), raised by `step`. Safe. -/
  | halted (record : FaultRecord)
  /-- `load_rom` with more than 0xE00 bytes (70_reset_and_hazards.md R205), raised by `loadRom`. Safe. -/
  | romTooLong (length : Nat)
  /-- A device's `initialize()` after the machine was constructed, so after its first use: outside the host's duty
  (60_exceptions.md R187, R194), raised by `answer`. Safe (log 33). -/
  | lateInitialize (device : Device)
  /-- 00EE with sp above 16, a value sp never holds (10_state.md R36), raised by `execRet`. Safe (log 28). -/
  | illegalStackPointer (sp : Byte)
  deriving DecidableEq, Repr

/-- Power-on of a machine with parameters `c` (R200, R201): the registers, stack and timers at 0 (spec decision
D11, log 9), pc = 0x200, no fault, memory 0x00 with the font at 0x000 (nothing listed), a blank display, no key,
the audio level free (log 5). -/
def State.powerOn (c : Config) : State where
  v := Vector.replicate 16 0x00#8
  iReg := 0x0000#16
  pc := 0x0200#16
  sp := 0x00#8
  stack := Vector.replicate 16 0x0000#16
  dt := 0x00#8
  st := 0x00#8
  faultLatch := none
  mem := []
  display := []
  keyLatch := 0x00#8
  audio := Config.audioAtPowerOn
  cfg := c
  draws := 0

/-- The machine right after power-on and reset, with the spec's default parameters (R7, R200, R201). -/
def State.reset : State := State.powerOn Config.default

end Sys2Proof.Machine
end

