-- ==== Sys2Proof/Machine/Ops.lean ====
section
/-!
DEFINITION. The named operations over registers, the stack, memory, the bitmap and the pc, every step's writes as
data (`Effect`), and taking a fault.
-/

namespace Sys2Proof.Machine

/-- What `exec` and `step` answer. -/
abbrev Result := Host.Outcome State Fault Refusal

/-! ### Registers (10_state.md R30 to R38) -/

/-- Reads `V[r]` (R30). -/
def State.getV (s : State) (r : RegIdx) : Byte := s.v[r.toNat]'(r.isLt)
/-- Writes `V[r]` (R30). No register is hardwired. -/
def State.setV (s : State) (r : RegIdx) (b : Byte) : State := { s with v := s.v.set r.toNat b r.isLt }
/-- Writes I (R33). -/
def State.setI (s : State) (a : Word) : State := { s with iReg := a }
/-- Writes pc (R34). -/
def State.setPc (s : State) (a : Word) : State := { s with pc := a }
/-- Writes sp (R36). -/
def State.setSp (s : State) (b : Byte) : State := { s with sp := b }
/-- Reads stack entry `j` (R37). -/
def State.getStack (s : State) (j : Fin 16) : Word := s.stack[j]
/-- Writes stack entry `j` (R37). -/
def State.setStack (s : State) (j : Fin 16) (a : Word) : State := { s with stack := s.stack.set j a }
/-- Writes DT (R38). -/
def State.setDt (s : State) (b : Byte) : State := { s with dt := b }
/-- Writes ST (R38). -/
def State.setSt (s : State) (b : Byte) : State := { s with st := b }
/-- Writes the fault latch (R40). -/
def State.setLatch (s : State) (r : Option FaultRecord) : State := { s with faultLatch := r }
/-- Replaces the memory (R60). -/
def State.setMem (s : State) (m : Memory) : State := { s with mem := m }
/-- Replaces the bitmap (R42). -/
def State.setDisplay (s : State) (d : Bitmap) : State := { s with display := d }
/-- Writes the key latch (R43). -/
def State.setKeyLatch (s : State) (b : Byte) : State := { s with keyLatch := b }
/-- Writes the audio level (R44). -/
def State.setAudio (s : State) (on : Bool) : State := { s with audio := on }
/-- Counts one free value as taken (log 3). -/
def State.draw (s : State) : State := { s with draws := s.draws + 1 }

/-! ### Memory (20_memory.md R60 to R68) -/

/-- The number of bytes of memory (R60): addresses 0x000..0xFFF. -/
abbrev memSize : Nat := 0x1000

/-- What an unlisted address reads as: the power-on contents, FONT_IMAGE from 0x000 and 0x00 after it (R68, R200;
spec decisions D10, D12; logs 7, 10). -/
def unlisted (font : List Byte) (a : Nat) : Byte := font.getD a 0x00#8

/-- The byte listed at an address, if there is one. -/
def Memory.listed (a : Nat) : Memory → Option Byte
  | [] => none
  | (k, b) :: rest => if k = a then some b else Memory.listed a rest

/-- Reads the byte at `a`. -/
def Memory.read (font : List Byte) (m : Memory) (a : Nat) : Byte := (m.listed a).getD (unlisted font a)

/-- Removes every entry at `a`. -/
def Memory.erase (a : Nat) (m : Memory) : Memory := m.filter (fun c => c.1 != a)

/-- Puts an entry before the first one at a higher address. -/
def Memory.insert (a : Nat) (b : Byte) : Memory → Memory
  | [] => [(a, b)]
  | c :: rest => if a < c.1 then (a, b) :: c :: rest else c :: Memory.insert a b rest

/-- Writes the byte at `a`, keeping the canonical form: a byte equal to what the unlisted address reads as is not
listed. -/
def Memory.write (font : List Byte) (m : Memory) (a : Nat) (b : Byte) : Memory :=
  if b = unlisted font a then m.erase a else (m.erase a).insert a b

/-- The canonical form: addresses strictly rising and inside the array, and no entry equal to what an unlisted
address reads as. -/
abbrev Memory.wf (font : List Byte) (m : Memory) : Prop :=
  m.Pairwise (fun c d => c.1 < d.1) ∧ ∀ c ∈ m, c.1 < memSize ∧ c.2 ≠ unlisted font c.1

/-- `MemRead(a, 1)` for an address in range (R12, R60); the range is checked by the operations that form `a`. -/
def State.readMem (s : State) (a : Nat) : Byte := s.mem.read s.cfg.fontImage a

/-- `MemWrite(a, 1, b)` for an address in range (R12, R60). -/
def State.writeMem (s : State) (a : Nat) (b : Byte) : State := s.setMem (s.mem.write s.cfg.fontImage a b)

/-- Writes consecutive bytes from `a` on, in increasing address order (R66, R204). -/
def State.writeBytes (s : State) (a : Nat) : List Byte → State
  | [] => s
  | b :: rest => (s.writeMem a b).writeBytes (a + 1) rest

/-! ### The display bitmap (60_exceptions.md R185, R186) -/

/-- Row-major order of pixels. -/
abbrev pixelBefore (p q : Nat × Nat) : Prop := p.2 < q.2 ∨ (p.2 = q.2 ∧ p.1 < q.1)

/-- `get_pixel(x, y)` (R185). -/
def Bitmap.get (d : Bitmap) (x y : Nat) : Bool := d.contains (x, y)

/-- Removes a pixel from the list of those that are on. -/
def Bitmap.erase (p : Nat × Nat) (d : Bitmap) : Bitmap := d.filter (fun q => q != p)

/-- Puts a pixel before the first one that follows it in row-major order. -/
def Bitmap.insert (p : Nat × Nat) : Bitmap → Bitmap
  | [] => [p]
  | q :: rest => if pixelBefore p q then p :: q :: rest else q :: Bitmap.insert p rest

/-- `draw_pixel(x, y, hint, on)` (R185); `hint` has no effect on the bitmap and is left out (log 18). -/
def Bitmap.draw (d : Bitmap) (x y : Nat) (on : Bool) : Bitmap :=
  if on then Bitmap.insert (x, y) (d.erase (x, y)) else d.erase (x, y)

/-- `clear()` (R185, R186), and the bitmap after `initialize()` (R187). -/
def Bitmap.blank : Bitmap := []

/-- The canonical form of a `w` × `h` bitmap: strictly rising in row-major order, every pixel inside. -/
abbrev Bitmap.wf (w h : Nat) (d : Bitmap) : Prop :=
  d.Pairwise pixelBefore ∧ ∀ p ∈ d, p.1 < w ∧ p.2 < h

/-- `get_width()` returns DISPLAY_WIDTH: the W of the display rules (R185). -/
abbrev State.getWidth (s : State) : Nat := s.cfg.displayWidth

/-- `get_height()` returns DISPLAY_HEIGHT: the H of the display rules (R185). -/
abbrev State.getHeight (s : State) : Nat := s.cfg.displayHeight

/-- `Disp.get(x, y)` (R12). -/
def State.getPixel (s : State) (x y : Nat) : Bool := s.display.get x y

/-- `Disp.draw(x, y, on)` (R12). -/
def State.drawPixel (s : State) (x y : Nat) (on : Bool) : State := s.setDisplay (s.display.draw x y on)

/-! ### The next pc (40_dispatch.md R104) -/

/-- `pc <- p + 2`, the end of every instruction that does not say otherwise (R104). -/
def advance (s : State) : State := s.setPc (s.pc + 2#16)

/-- `pc <- p + 4` where the condition holds, `pc <- p + 2` where it does not: the conditional skips (R104). -/
def skipWhen (c : Bool) (s : State) : State := s.setPc (s.pc + if c then 4#16 else 2#16)

/-! ### Taking a fault (60_exceptions.md R170 to R176) -/

/-- The cause code of a fault (R170; spec decision D8). -/
def FaultKind.code : FaultKind → Nat
  | .unknownInstruction _ => 1
  | .memoryOutOfRange _ _ => 2
  | .stackOverflow _ => 3
  | .stackUnderflow _ => 4

/-- The halted machine: the record latched, nothing else written; pc stays the faulting instruction's address
(R40, R170, R176). -/
def halt (k : FaultKind) (s : State) : State := s.setLatch (some ⟨k, s.pc⟩)

/-- Takes a fault from the state `s` that it leaves behind: the step ends with the fault, the machine latches the
record and halts (R170, R176). The way out is `resetPort` (R177, R202). -/
def raise (k : FaultKind) (s : State) : Result :=
  match k with
  | .unknownInstruction raw => .fault (.unknownInstruction raw (halt k s))
  | .memoryOutOfRange addr access => .fault (.memoryOutOfRange addr access (halt k s))
  | .stackOverflow sp => .fault (.stackOverflow sp (halt k s))
  | .stackUnderflow sp => .fault (.stackUnderflow sp (halt k s))

/-- The state a fault leaves the machine in (R176). -/
def Fault.halted : Fault → State
  | .unknownInstruction _ h => h
  | .memoryOutOfRange _ _ h => h
  | .stackOverflow _ h => h
  | .stackUnderflow _ h => h

/-- The kind and info of a fault (R170). -/
def Fault.kind : Fault → FaultKind
  | .unknownInstruction raw _ => .unknownInstruction raw
  | .memoryOutOfRange addr access _ => .memoryOutOfRange addr access
  | .stackOverflow sp _ => .stackOverflow sp
  | .stackUnderflow sp _ => .stackUnderflow sp

/-! ### The writes of an instruction that makes several accesses (20_memory.md R66) -/

/-- One write: a memory byte, a V register, a pixel. -/
inductive Effect where
  | memory (a : Nat) (b : Byte)
  | register (r : RegIdx) (b : Byte)
  | pixel (x y : Nat) (on : Bool)
  deriving DecidableEq, Repr

/-- Makes one write. -/
def Effect.apply (e : Effect) (s : State) : State :=
  match e with
  | .memory a b => s.writeMem a b
  | .register r b => s.setV r b
  | .pixel x y on => s.drawPixel x y on

/-- How far an instruction has got: the state now, and the writes it has made, oldest first. -/
structure Progress where
  now : State
  done : List Effect
  deriving DecidableEq, Repr

/-- Nothing done yet. -/
def Progress.start (s : State) : Progress := ⟨s, []⟩

/-- Makes one write and records it. -/
def Progress.emit (p : Progress) (e : Effect) : Progress := ⟨e.apply p.now, p.done ++ [e]⟩

/-- Makes one write where `keep` holds, and otherwise writes back the value that is there: only the written place
depends on `keep`. -/
def Effect.applyIf (keep : Bool) (e : Effect) (s : State) : State :=
  match e with
  | .memory a b => s.setMem (if keep then s.mem.write s.cfg.fontImage a b else s.mem)
  | .register r b => s.setV r (if keep then b else s.getV r)
  | .pixel x y on => s.setDisplay (if keep then s.display.draw x y on else s.display)

/-- The writes of `es`, numbered from `j`, that survive a fault: each one by a free choice of its own
(60_exceptions.md R176; 93_implementation_defined.md A12; log 4). -/
def keepSome (k : Nat) (j : Nat) : List Effect → State → State
  | [], s => s
  | e :: rest, s => keepSome k (j + 1) rest (e.applyIf (Config.survives k j) s)

/-- What a fault part-way through an instruction leaves of the writes `es` it had made from `s`: any subset of
them, by free choices, counted as taken. -/
def partialEffects (es : List Effect) (s : State) : State := (keepSome s.draws 0 es s).draw

end Sys2Proof.Machine
end

