-- ==== Sys2Proof/Machine/Flags.lean ====
section
/-!
DEFINITION. The values the flag VF is written with (10_state.md R32). Only 8xy4, 8xy5, 8xy6 and Dxyn write it as a
flag.
-/

namespace Sys2Proof.Machine

/-- A flag value: 1 where the condition holds, else 0 (R31). -/
def flagByte (c : Bool) : Byte := if c then 0x01#8 else 0x00#8

/-- 8xy4: 1 when the exact sum exceeds 255 (R127). -/
def carryFlag (a b : Byte) : Byte := flagByte (decide (a.toNat + b.toNat > 255))

/-- 8xy5: 1 when Vx is strictly greater than Vy (R128). -/
def greaterFlag (a b : Byte) : Byte := flagByte (decide (a.toNat > b.toNat))

/-- 8xy6: the bit shifted out (R129). -/
def shiftedOutFlag (a : Byte) : Byte := a &&& 0x01#8

/-- Dxyn: the value VF is reset to before drawing (R151). -/
def noCollisionFlag : Byte := flagByte false

/-- Dxyn: the value VF takes at a collision (R151). -/
def collisionFlag : Byte := flagByte true

end Sys2Proof.Machine
end

