-- ==== Sys2Proof/Machine/Operands.lean ====
section
/-!
DEFINITION. Every operand form: registers read before or after a flag write (42_alu.md R126), immediates
(30_encoding.md R82), the addressing mode I + offset (43_index_memory.md R146), and the run of byte accesses of
Fx33, Fx55, Fx65 and Dxyn with the fault that interrupts it (20_memory.md R63, R66).
-/

namespace Sys2Proof.Machine

/-- The registers an operand read sees after the flag write has been made: those left by the statement before
(`sequential`), or those from before the instruction (`snapshot`) (R126). -/
def operandState (before now : State) : State :=
  match now.cfg.vfOperandRead with
  | .sequential => now
  | .snapshot => before

/-- `zext_16(nnn)`, a jump or call target or the value of I (R82). -/
def immAddr (nnn : Addr12) : Word := nnn.zeroExtend 16

/-- `zext_16(V[x])` as an addend of I (R82, R141). -/
def regAddend (s : State) (x : RegIdx) : Word := (s.getV x).zeroExtend 16

/-- The effective address I + offset, exact: no 12-bit or 16-bit wrap (R146, R63). -/
def effectiveAddress (s : State) (offset : Nat) : Nat := s.iReg.toNat + offset

/-- How many of `count` byte accesses from `base` on lie in memory before the first one above 0xFFF (R63). -/
def inRange (base count : Nat) : Nat := min count (memSize - base)

/-- Runs `count` byte accesses at I, I + 1, … in increasing address order, each doing `body` (R66). Where all lie in
memory the instruction completes and pc advances. Otherwise it faults at the first address above 0xFFF, and an
unspecified subset of the writes made before it survives (R63, R175, R176). -/
def accessRun (count : Nat) (access : Access) (body : Nat → Progress → Progress) (p : Progress) (s : State) :
    Result :=
  let k := inRange (effectiveAddress s 0) count
  let q := (List.range k).foldl (fun p j => body j p) p
  if k = count then .next (advance q.now)
  else raise (.memoryOutOfRange (effectiveAddress s k) access) (partialEffects q.done s)

end Sys2Proof.Machine
end

