-- ==== Sys2Proof/Machine/Alu.lean ====
section
/-!
DEFINITION. Register and ALU instructions (42_alu.md R120 to R130). Every value is an unsigned byte and wraps mod
256 (R125). Where an instruction writes a flag, the flag write comes first and the result write last (R126).
-/

namespace Sys2Proof.Machine

/-- `LD Vx, kk` (R120). -/
def execLdVxKk (x : RegIdx) (kk : Byte) (s : State) : Result := .next (advance (s.setV x kk))

/-- `ADD Vx, kk` (R121): no flag. -/
def execAddVxKk (x : RegIdx) (kk : Byte) (s : State) : Result := .next (advance (s.setV x (s.getV x + kk)))

/-- `LD Vx, Vy` (R122). -/
def execLdVxVy (x y : RegIdx) (s : State) : Result := .next (advance (s.setV x (s.getV y)))

/-- `AND Vx, Vy` (R123): VF is not reset. -/
def execAndVxVy (x y : RegIdx) (s : State) : Result := .next (advance (s.setV x (s.getV x &&& s.getV y)))

/-- `XOR Vx, Vy` (R124). -/
def execXorVxVy (x y : RegIdx) (s : State) : Result := .next (advance (s.setV x (s.getV x ^^^ s.getV y)))

/-- `ADD Vx, Vy` (R127): the sum is formed before either write. -/
def execAddVxVy (x y : RegIdx) (s : State) : Result :=
  let a := s.getV x
  let b := s.getV y
  .next (advance ((s.setV vF (carryFlag a b)).setV x (a + b)))

/-- `SUB Vx, Vy` (R128): the flag is strict; the operands of the difference are read per VF_OPERAND_READ (R126). -/
def execSubVxVy (x y : RegIdx) (s : State) : Result :=
  let flagged := s.setV vF (greaterFlag (s.getV x) (s.getV y))
  let o := operandState s flagged
  .next (advance (flagged.setV x (o.getV x - o.getV y)))

/-- `SHR Vx` (R129): the field y is ignored (spec decision D3, log 12). -/
def execShrVx (x _y : RegIdx) (s : State) : Result :=
  let flagged := s.setV vF (shiftedOutFlag (s.getV x))
  let o := operandState s flagged
  .next (advance (flagged.setV x (o.getV x >>> 1)))

/-- `RND Vx, kk` (R130): one draw of the random source, a free value (R190, log 3). -/
def execRndVxKk (x : RegIdx) (kk : Byte) (s : State) : Result :=
  .next (advance ((s.setV x (Config.randomByte s.draws &&& kk)).draw))

end Sys2Proof.Machine
end

