-- ==== Sys2Proof/Machine/Display.lean ====
section
/-!
DEFINITION. Display instructions and the XOR sprite blitter (44_display.md R150 to R153).
-/

namespace Sys2Proof.Machine

/-- `CLS` (R150): every pixel off; VF unchanged. -/
def execCls (s : State) : Result := .next (advance (s.setDisplay Bitmap.blank))

/-- Column `col` of a sprite byte, MSB first: `b[7 - col]` (R151). -/
def spriteBit (b : Byte) (col : Nat) : Bool := b.getLsbD (7 - col)

/-- One set bit of the sprite at (row, col) (R151): the coordinates are exact sums, a pixel outside the bitmap is
dropped (R152), and the pixel is queried once and then drawn once (R153). -/
def xorPixel (x y : RegIdx) (s : State) (row col : Nat) (p : Progress) : Progress :=
  let o := operandState s p.now
  let px := (o.getV x).toNat + col
  let py := (o.getV y).toNat + row
  if px < p.now.getWidth ∧ py < p.now.getHeight then
    let old := p.now.getPixel px py
    let drawn := p.emit (.pixel px py (!old))
    if old then drawn.emit (.register vF collisionFlag) else drawn
  else p

/-- Column `col` of a row: nothing for a clear bit (R151, R153). -/
def drawColumn (x y : RegIdx) (s : State) (row : Nat) (b : Byte) (col : Nat) (p : Progress) : Progress :=
  if spriteBit b col then xorPixel x y s row col p else p

/-- Row `row` of a sprite: reads `MemRead(I + row, 1)` and draws its columns 0 to 7 (R151). The blitter writes no
memory, so the byte is the one memory held when the instruction began. -/
def drawRow (x y : RegIdx) (s : State) (row : Nat) (p : Progress) : Progress :=
  let b := s.readMem (effectiveAddress s row)
  (List.range 8).foldl (fun q col => drawColumn x y s row b col q) p

/-- Where Dxyn starts: VF reset to 0 (R151). -/
def drawStart (s : State) : Progress := (Progress.start s).emit (.register vF noCollisionFlag)

/-- `DRW Vx, Vy, n` (R151): every row is read, even one whose pixels are all clipped. -/
def execDrw (x y : RegIdx) (n : Nibble) (s : State) : Result :=
  accessRun n.toNat .read (drawRow x y s) (drawStart s) s

end Sys2Proof.Machine
end

