-- ==== Sys2Proof/Machine/Flow.lean ====
section
/-!
DEFINITION. Control transfer: return, jump, call and the immediate skips (41_flow.md R110 to R114).
-/

namespace Sys2Proof.Machine

/-- `RET` (R110): pops the return address, which becomes pc as it stands. The entry popped keeps its value (R37). -/
def execRet (s : State) : Result :=
  if s.sp = 0x00#8 then raise (.stackUnderflow s.sp) s
  else
    let sp' := s.sp - 0x01#8
    if h : sp'.toNat < 16 then .next ((s.setSp sp').setPc (s.getStack ⟨sp'.toNat, h⟩))
    else .refused (.illegalStackPointer s.sp)

/-- `JP nnn` (R111). -/
def execJp (nnn : Addr12) (s : State) : Result := .next (s.setPc (immAddr nnn))

/-- `CALL nnn` (R112): pushes p + 2 and jumps; the stack holds 16 entries (R37). -/
def execCall (nnn : Addr12) (s : State) : Result :=
  if h : s.sp.toNat < 16 then
    .next (((s.setStack ⟨s.sp.toNat, h⟩ (s.pc + 2#16)).setSp (s.sp + 0x01#8)).setPc (immAddr nnn))
  else raise (.stackOverflow s.sp) s

/-- `SE Vx, kk` (R113). -/
def execSeVxKk (x : RegIdx) (kk : Byte) (s : State) : Result := .next (skipWhen (s.getV x == kk) s)

/-- `SNE Vx, kk` (R114). -/
def execSneVxKk (x : RegIdx) (kk : Byte) (s : State) : Result := .next (skipWhen (s.getV x != kk) s)

end Sys2Proof.Machine
end

