-- ==== Sys2Proof/Machine/Index.lean ====
section
/-!
DEFINITION. Index register and memory instructions (43_index_memory.md R140 to R146). None of them changes I after
its accesses (R146; spec decision D2, log 11).
-/

namespace Sys2Proof.Machine

/-- `LD I, nnn` (R140). -/
def execLdINnn (nnn : Addr12) (s : State) : Result := .next (advance (s.setI (immAddr nnn)))

/-- `ADD I, Vx` (R141): wraps at 16 bits, no flag (spec decision D14, log 16). -/
def execAddIVx (x : RegIdx) (s : State) : Result := .next (advance (s.setI (s.iReg + regAddend s x)))

/-- `LD F, Vx` (R142): Vx is not masked; the product is at most 0x04FB, so it is exact. -/
def execLdFVx (x : RegIdx) (s : State) : Result := .next (advance (s.setI (regAddend s x * 5#16)))

/-- The digit that Fx33 stores at I + j: hundreds, tens, ones (R143). -/
def bcdDigit (v : Byte) (j : Nat) : Byte :=
  if j = 0 then BitVec.ofNat 8 (v.toNat / 100)
  else if j = 1 then BitVec.ofNat 8 (v.toNat / 10 % 10)
  else BitVec.ofNat 8 (v.toNat % 10)

/-- Access `j` of Fx33 (R143). -/
def storeDigit (x : RegIdx) (s : State) (j : Nat) (p : Progress) : Progress :=
  p.emit (.memory (effectiveAddress s j) (bcdDigit (s.getV x) j))

/-- `LD B, Vx` (R143). -/
def execLdBVx (x : RegIdx) (s : State) : Result :=
  accessRun 3 .write (storeDigit x s) (.start s) s

/-- Access `j` of Fx55: `MemWrite(I + j, 1, V[j])` (R144). -/
def storeRegister (s : State) (j : Nat) (p : Progress) : Progress :=
  p.emit (.memory (effectiveAddress s j) (s.getV (BitVec.ofNat 4 j)))

/-- `LD [I], Vx` (R144): x + 1 bytes. -/
def execLdMemVx (x : RegIdx) (s : State) : Result :=
  accessRun (x.toNat + 1) .write (storeRegister s) (.start s) s

/-- Access `j` of Fx65: `V[j] <- MemRead(I + j, 1)` (R145). The loop writes no memory, so the byte is the one memory
held when the instruction began. -/
def loadRegister (s : State) (j : Nat) (p : Progress) : Progress :=
  p.emit (.register (BitVec.ofNat 4 j) (s.readMem (effectiveAddress s j)))

/-- `LD Vx, [I]` (R145): x + 1 bytes. -/
def execLdVxMem (x : RegIdx) (s : State) : Result :=
  accessRun (x.toNat + 1) .read (loadRegister s) (.start s) s

end Sys2Proof.Machine
end

