-- ==== Sys2Proof/Machine/KeysTimers.lean ====
section
/-!
DEFINITION. Keyboard and timer instructions (45_keys_timers.md R160 to R165). `Key.get()` is the key latch; 0 means
no key (60_exceptions.md R188).
-/

namespace Sys2Proof.Machine

/-- `SKP Vx` (R160): all 8 bits are compared, and no key compares equal to 0. -/
def execSkp (x : RegIdx) (s : State) : Result := .next (skipWhen (s.keyLatch == s.getV x) s)

/-- `SKNP Vx` (R161). -/
def execSknp (x : RegIdx) (s : State) : Result := .next (skipWhen (s.keyLatch != s.getV x) s)

/-- `LD Vx, DT` (R162). -/
def execLdVxDt (x : RegIdx) (s : State) : Result := .next (advance (s.setV x s.dt))

/-- `LD Vx, K` (R163): with no key the step writes nothing, and the same instruction runs again on the next step
(R41, R106). -/
def execLdVxK (x : RegIdx) (s : State) : Result :=
  if s.keyLatch = 0x00#8 then .next s else .next (advance (s.setV x s.keyLatch))

/-- `LD DT, Vx` (R164). -/
def execLdDtVx (x : RegIdx) (s : State) : Result := .next (advance (s.setDt (s.getV x)))

/-- `LD ST, Vx` (R165): no Audio operation is called. -/
def execLdStVx (x : RegIdx) (s : State) : Result := .next (advance (s.setSt (s.getV x)))

end Sys2Proof.Machine
end

