-- ==== Sys2Proof/WellFormed.lean ====
section
/-!
DEFINITION. What is checked of an instruction and of a machine's parameters before the machine runs.
-/

namespace Sys2Proof

/-- Every term of `Instr` is well formed: its fields have the widths of 30_encoding.md R81 by their types, and the
spec forbids no operand value (R30, R82, R88). There is no check that a term could fail. -/
def Instr.wellFormed : Instr → Bool := fun _ => true

/-- DISPLAY_WIDTH is a positive integer (00_scope.md R7). -/
def Config.widthPositive (c : Config) : Bool := decide (0 < c.displayWidth)

/-- DISPLAY_HEIGHT is a positive integer (00_scope.md R7). -/
def Config.heightPositive (c : Config) : Bool := decide (0 < c.displayHeight)

/-- FONT_IMAGE has length at most 0x200 (00_scope.md R7). -/
def Config.fontFits (c : Config) : Bool := decide (c.fontImage.length ≤ 0x200)

/-- The parameters lie in the ranges 00_scope.md R7 gives them. -/
def Config.wellFormed (c : Config) : Bool := c.widthPositive && c.heightPositive && c.fontFits

end Sys2Proof
end

