-- ==== Sys2Proof/Machine/Cycle.lean ====
section
/-!
DEFINITION. The fetch-decode-execute cycle (40_dispatch.md R100 to R106), and the placing of one instruction where
the next fetch reads it.
-/

namespace Sys2Proof.Machine

/-- What a fetch gives: the word, or the first address above 0xFFF (R101). -/
inductive Fetched where
  | word (w : Word)
  | outside (addr : Nat)
  deriving DecidableEq, Repr

/-- Reads the two bytes at pc and pc + 1, most significant first; any pc, odd or even; no wrap (R101, R64, R65). -/
def fetch (s : State) : Fetched :=
  if s.pc.toNat ≥ memSize then .outside s.pc.toNat
  else if s.pc.toNat + 1 ≥ memSize then .outside (s.pc.toNat + 1)
  else .word (wordOfBytes (s.readMem s.pc.toNat) (s.readMem (s.pc.toNat + 1)))

/-- One cycle of a machine that holds no fault: fetch, decode, dispatch, execute (R100, R175). -/
def cycle (s : State) : Result :=
  match fetch s with
  | .outside addr => raise (.memoryOutOfRange addr .fetch) s
  | .word w =>
    match decodeWord w with
    | none => raise (.unknownInstruction w) s
    | some i => exec i s

/-- `step()`: one cycle, or a refusal where the machine holds a fault (R100, R105). -/
def stepPort (s : State) : Result :=
  match s.faultLatch with
  | some record => .refused (.halted record)
  | none => cycle s

/-- Where the next fetch reads: pc, or the reset value 0x200 where no fetch at pc can succeed. -/
def fetchPlace (s : State) : Word := if s.pc.toNat + 1 < memSize then s.pc else 0x0200#16

/-- Puts the instruction of the table word `w` where the next fetch reads it (the load that stands for `load_rom`,
log 26): its two bytes in memory, no fault latched, and pc at a place a fetch can read. -/
def placeWord (s : State) (nbits w : Nat) : State :=
  ((s.setLatch none).setPc (fetchPlace s)).writeBytes (fetchPlace s).toNat (tableBytes nbits w)

end Sys2Proof.Machine
end

