-- ==== Sys2Proof/Machine/Step.lean ====
section
/-!
DEFINITION. The machine's step (40_dispatch.md R100) and the host's placing of an instruction to run next.
-/

namespace Sys2Proof.Machine

/-- `step()`: one fetch-decode-execute cycle. -/
def step (s : State) : Host.Outcome State Fault Refusal := stepPort s

/-- `s` with one instruction stored where `step` fetches its next instruction. -/
def State.withFetchWord (s : State) (nbits w : Nat) : State := placeWord s nbits w

end Sys2Proof.Machine
end

