-- ==== Sys2Proof/Machine/Ports.lean ====
section
/-!
DEFINITION. The host's other ports (00_scope.md R9; 60_exceptions.md R181, R188, R194; 70_reset_and_hazards.md R201
to R205) and schedules of host calls (R191).
-/

namespace Sys2Proof.Machine

/-- `reset()` (R201, R202, R203): registers, stack, timers and display reinitialised, the font region rewritten, the
fault latch cleared; the key latch, the audio level and the rest of memory untouched. The way out of the halted
state (R177). -/
def resetPort (s : State) : State :=
  let blank := { s with
    v := Vector.replicate 16 0x00#8, iReg := 0x0000#16, pc := 0x0200#16, sp := 0x00#8
    stack := Vector.replicate 16 0x0000#16, dt := 0x00#8, st := 0x00#8, display := Bitmap.blank }
  (blank.writeBytes 0 s.cfg.fontImage).setLatch none

/-- The address of the first byte of a ROM (R6, R204). -/
abbrev romOrigin : Nat := 0x200

/-- `load_rom(bytes)` (R204): copies the bytes to memory from 0x200 and writes nothing else. A ROM that does not
fit is refused (R205; spec decision D23, log 23). -/
def loadRom (bytes : List Byte) (s : State) : Result :=
  if romOrigin + bytes.length ≤ memSize then .next (s.writeBytes romOrigin bytes)
  else .refused (.romTooLong bytes.length)

/-- One timer's decrement, floor 0 (R181). -/
def countDown (t : Byte) : Byte := if t = 0x00#8 then t else t - 0x01#8

/-- `tick_timers()` (R181, R182): both timers count down, and the audio level follows the sound timer after its
decrement. A halted machine ticks like any other (spec decision D18). -/
def tickTimers (s : State) : State :=
  let ticked := (s.setDt (countDown s.dt)).setSt (countDown s.st)
  ticked.setAudio (ticked.st != 0x00#8)

/-- `set_key(code)` (R188): 0 means no key. -/
def setKey (code : Byte) (s : State) : State := s.setKeyLatch code

/-- The calls a host makes (R9, R194). -/
inductive HostCall where
  | initDevice (device : Device)
  | reset
  | loadRom (bytes : List Byte)
  | step
  | tickTimers
  | setKey (code : Byte)
  deriving DecidableEq, Repr

/-- What a call answers. Every call is admitted at every step boundary, on a halted machine too, but `step()` there, a
`load_rom` that does not fit, and a device's `initialize()`, whose place is before the machine is constructed
(Machine/Boot.lean): those are refused (R194). -/
def answer (c : HostCall) (s : State) : Result :=
  match c with
  | .initDevice device => .refused (.lateInitialize device)
  | .reset => .next (resetPort s)
  | .loadRom bytes => loadRom bytes s
  | .step => step s
  | .tickTimers => .next (tickTimers s)
  | .setKey code => .next (setKey code s)

/-- The machine after a call: the next state, the halted state after a fault, and nothing where the call is refused,
which has no meaning in the model (R170, R194). -/
def serve (c : HostCall) (s : State) : Option State :=
  match answer c s with
  | .next t => some t
  | .fault f => some f.halted
  | .refused _ => none

/-- The machine after a schedule of calls, each at a step boundary, in the order the host chose (R191). -/
def serveAll : List HostCall → State → Option State
  | [], s => some s
  | c :: rest, s =>
    match serve c s with
    | some t => serveAll rest t
    | none => none

end Sys2Proof.Machine
end

