-- ==== Sys2Proof/Machine/Devices.lean ====
section
/-!
DEFINITION. The operations of the devices (00_scope.md R10) that an instruction, a tick and a reset call, in order: what
a test double of a device observes (44_display.md R153; 60_exceptions.md R181, R185, R188, R190).
-/

namespace Sys2Proof.Machine

/-- One device operation (R10). The `hint` of `draw_pixel` is left out (log 18). `initDevice` is called by the host
before the machine is constructed (R187; Machine/Boot.lean). -/
inductive DeviceCall where
  | initDevice (device : Device)
  | clear
  | getWidth
  | getHeight
  | getPixel (x y : Nat)
  | drawPixel (x y : Nat) (on : Bool)
  | getKey
  | randomByte
  | startSound
  | stopSound
  deriving DecidableEq, Repr

/-- The Display operations of one write of the blitter: the query, then the draw (R153). -/
def pixelCalls : Effect → List DeviceCall
  | .pixel x y on => [.getPixel x y, .drawPixel x y on]
  | .memory _ _ => []
  | .register _ _ => []

/-- The Display operations of Dxyn, in order, up to the fault where it faults (R153). -/
def drwCalls (x y : RegIdx) (n : Nibble) (s : State) : List DeviceCall :=
  let k := inRange (effectiveAddress s 0) n.toNat
  ((List.range k).foldl (fun p j => drawRow x y s j p) (drawStart s)).done.flatMap pixelCalls

/-- The device operations an instruction calls from a state (R150, R153, R160, R161, R163, R182, R190), but for the
queries of the bitmap's size, which `observable` adds. -/
def deviceCalls (i : Instr) (s : State) : List DeviceCall :=
  match i with
  | .cls => [.clear]
  | .drw x y n => drwCalls x y n s
  | .skp _ => [.getKey]
  | .sknp _ => [.getKey]
  | .ldVxK _ => [.getKey]
  | .rndVxKk _ _ => [.randomByte]
  | .ret => []
  | .jp _ => []
  | .call _ => []
  | .seVxKk _ _ => []
  | .sneVxKk _ _ => []
  | .ldVxKk _ _ => []
  | .addVxKk _ _ => []
  | .ldVxVy _ _ => []
  | .andVxVy _ _ => []
  | .xorVxVy _ _ => []
  | .addVxVy _ _ => []
  | .subVxVy _ _ => []
  | .shrVx _ _ => []
  | .ldINnn _ => []
  | .ldVxDt _ => []
  | .ldDtVx _ => []
  | .ldStVx _ => []
  | .addIVx _ => []
  | .ldFVx _ => []
  | .ldBVx _ => []
  | .ldMemVx _ => []
  | .ldVxMem _ => []

/-- The queries of the bitmap's size (R185). -/
def DeviceCall.isSizeQuery : DeviceCall → Bool
  | .getWidth => true
  | .getHeight => true
  | .initDevice _ => false
  | .clear => false
  | .getPixel _ _ => false
  | .drawPixel _ _ _ => false
  | .getKey => false
  | .randomByte => false
  | .startSound => false
  | .stopSound => false

/-- Some row of the sprite that lies in memory has a set bit. With none, Dxyn makes no device call (R151, R153). -/
def hasSetBit (n : Nibble) (s : State) : Bool :=
  (List.range (inRange (effectiveAddress s 0) n.toNat)).any (fun row => s.readMem (effectiveAddress s row) != 0x00#8)

/-- The traces of device operations that a test double may see of Dxyn: its pixel operations in order, and among them
any number of size queries at any place, which the spec does not fix (R153, R185; log 24). -/
def drwObservable (x y : RegIdx) (n : Nibble) (s : State) (trace : List DeviceCall) : Bool :=
  trace.filter (fun c => !c.isSizeQuery) == drwCalls x y n s && (hasSetBit n s || !trace.any DeviceCall.isSizeQuery)

/-- The traces of device operations that a test double may see of an instruction: only Dxyn queries the size (R185). -/
def observable (i : Instr) (s : State) (trace : List DeviceCall) : Prop :=
  trace = deviceCalls i s ∨ ∃ x y n, i = .drw x y n ∧ drwObservable x y n s trace = true

/-- The Audio operation a tick calls, from the state before it (R181, R182): re-asserted on every tick. -/
def tickCalls (s : State) : List DeviceCall :=
  if (tickTimers s).st = 0x00#8 then [.stopSound] else [.startSound]

/-- The Display operation `reset()` calls; it calls no Audio operation (R185, R203). -/
def resetCalls (_s : State) : List DeviceCall := [.clear]

end Sys2Proof.Machine
end

