-- ==== Sys2Proof/Machine/Boot.lean ====
section
/-!
DEFINITION. Boot: the host initialises each device once and then constructs the machine (60_exceptions.md R187, R194;
70_reset_and_hazards.md R200, R206). `State.powerOn` is what boot comes to.
-/

namespace Sys2Proof.Machine

/-- The devices before a machine is constructed: their state, and which of them have been initialised. -/
structure Devices where
  display : Bitmap
  keyLatch : Byte
  audio : Bool
  initialized : List Device
  deriving DecidableEq, Repr

/-- The state of a device after its `initialize()` (R187, R194): every pixel off, no key. No rule gives the Audio
device a level, so that is the free value of power-on (R44; logs 5, 33). -/
def blankDevice (d : Device) (u : Devices) : Devices :=
  match d with
  | .display => { u with display := Bitmap.blank }
  | .keyboard => { u with keyLatch := 0x00#8 }
  | .audio => { u with audio := Config.audioAtPowerOn }

/-- `initialize()` of one device: once, before first use (R187, R194). A second call has no meaning. -/
def Devices.initDevice (d : Device) (u : Devices) : Option Devices :=
  if d ∈ u.initialized then none else some { blankDevice d u with initialized := d :: u.initialized }

/-- The initialisations a host makes, in its own order. -/
def Devices.initAll : List Device → Devices → Option Devices
  | [], u => some u
  | d :: rest, u =>
    match u.initDevice d with
    | some w => w.initAll rest
    | none => none

/-- The construction of a machine on initialised devices (R200, R206): memory as `State.powerOn` has it, then the full
effect of `reset()`. It has no meaning before every device is initialised (R194). -/
def construct (c : Config) (u : Devices) : Option State :=
  if .display ∈ u.initialized ∧ .keyboard ∈ u.initialized ∧ .audio ∈ u.initialized then
    some (resetPort { State.powerOn c with display := u.display, keyLatch := u.keyLatch, audio := u.audio })
  else none

/-- Boot up to the first `load_rom` or `step()` (R206). -/
def boot (c : Config) (order : List Device) (u : Devices) : Option State :=
  match u.initAll order with
  | some w => construct c w
  | none => none

/-- The device operations of boot, in order: the host's, and the one of the reset in the construction (R185, R200). -/
def bootCalls (order : List Device) (s : State) : List DeviceCall := order.map .initDevice ++ resetCalls s

end Sys2Proof.Machine
end

