-- ==== Sys2Proof/Safety.lean ====
section
/-!
DEFINITION. The terms claims are stated in: the invariant of every state a run reaches, the frame of an
instruction, the states a host can reach, and the end of a run.
-/

namespace Sys2Proof

open Sys2Proof.Machine

/-! ### The invariant -/

/-- What every state a machine can reach satisfies: the parameters are in range (R7), memory and bitmap are in
canonical form and inside their bounds (R60, R42), sp is one of 0..16 (R36), every stack entry is a return address
`p + 2` with `p ≤ 0xFFE` or the reset value (R112, R37), and pc is at most 0x1002 (R35). -/
structure StateInv (s : State) : Prop where
  config : s.cfg.wellFormed = true
  memory : s.mem.wf s.cfg.fontImage
  display : s.display.wf s.cfg.displayWidth s.cfg.displayHeight
  stackPointer : s.sp.toNat ≤ 16
  returnAddresses : ∀ j : Fin 16, (s.getStack j).toNat ≤ 0x1000
  programCounter : s.pc.toNat ≤ 0x1002

/-- The states a host reaches from power-on with parameters `c`, by any schedule of calls (R191, R206). -/
inductive Reachable (c : Config) : State → Prop where
  | powerOn : Reachable c (State.powerOn c)
  | call {s t : State} (h : HostCall) : Reachable c s → serve h s = some t → Reachable c t

/-! ### Frames -/

/-- A piece of state an instruction can write, other than pc. -/
inductive Part where
  | v (r : RegIdx)
  | index
  | sp
  | stack (j : Nat)
  | dt
  | st
  | memory (a : Nat)
  | display
  | draws
  deriving DecidableEq, Repr

/-- From `s` to `t` nothing changed but the parts listed and pc. The fault latch, the key latch, the audio level and
the parameters are written by no instruction (R40, R43, R44, R185). -/
structure UnchangedBut (written : List Part) (s t : State) : Prop where
  registers : ∀ r, Part.v r ∉ written → t.getV r = s.getV r
  index : Part.index ∉ written → t.iReg = s.iReg
  stackPointer : Part.sp ∉ written → t.sp = s.sp
  stack : ∀ j : Fin 16, Part.stack j ∉ written → t.getStack j = s.getStack j
  delayTimer : Part.dt ∉ written → t.dt = s.dt
  soundTimer : Part.st ∉ written → t.st = s.st
  memory : ∀ a, Part.memory a ∉ written → t.readMem a = s.readMem a
  display : Part.display ∉ written → ∀ x y, t.getPixel x y = s.getPixel x y
  draws : Part.draws ∉ written → t.draws = s.draws
  faultLatch : t.faultLatch = s.faultLatch
  keyLatch : t.keyLatch = s.keyLatch
  audio : t.audio = s.audio
  config : t.cfg = s.cfg

/-- The memory bytes at `base` to `base + count - 1`, as parts. -/
def memoryParts (base count : Nat) : List Part := (List.range count).map (fun j => Part.memory (base + j))

/-- The registers V0 to Vx, as parts. -/
def registersUpTo (x : RegIdx) : List Part :=
  (List.range (x.toNat + 1)).map (fun j => Part.v (BitVec.ofNat 4 j))

/-! ### Runs -/

/-- `k` steps from `s` end in a state: none of them faults or is refused. A faulted state is never final (R176). -/
def RunsSafely (k : Nat) (s : State) : Prop := ∃ t, Host.Core.run core k s = .next t

/-- The end of a run by a self-jump: the instruction at pc is `1nnn` with nnn = pc (R212 c; spec decision D29). -/
def AtSelfJump (s : State) : Prop :=
  s.faultLatch = none ∧ ∃ w nnn, fetch s = .word w ∧ decodeWord w = some (.jp nnn) ∧ immAddr nnn = s.pc

end Sys2Proof
end

