-- ==== Sys2Proof/Certificates/Slice0/Obligations.lean ====
section
/-!
DEFINITION. The statements for the provers, each from the numbered rules of spec/ its docstring names. "derived" in
OBLIGATIONS.json marks a statement that rests on one of the spec's own decisions D<n> (92_eei_decisions.md) or on a
choice of the model's, which the docstring names with its log entry.
-/

open Sys2Proof Sys2Proof.Machine

/-! ### What the statements are written with -/

/-- The value of register `r` read after VF has been written with `flag`, by an instruction that began in `s`: the
new VF under `sequential`, the register as it was under `snapshot` (42_alu.md R126). -/
def Sys2Proof.Spec.readAfterFlag (s : State) (flag : Byte) (r : RegIdx) : Byte :=
  match s.cfg.vfOperandRead with
  | .sequential => if r = vF then flag else s.getV r
  | .snapshot => s.getV r

/-- `s` halted by a fault that wrote nothing else (60_exceptions.md R170, R176). -/
def Sys2Proof.Spec.haltedAt (k : FaultKind) (s : State) : State := { s with faultLatch := some ⟨k, s.pc⟩ }

/-- `h` is `s` halted by a fault of kind `k`, with nothing changed but (some of) the parts listed: the record is
latched and pc is still the faulting instruction's address (R170, R176). -/
def Sys2Proof.Spec.HaltedPartWay (k : FaultKind) (parts : List Part) (s h : State) : Prop :=
  h.faultLatch = some ⟨k, s.pc⟩ ∧ h.pc = s.pc ∧ UnchangedBut parts s { h with faultLatch := s.faultLatch }

/-- The bitmap as a function of the coordinates, and VF: what Dxyn works on. -/
structure Sys2Proof.Spec.Canvas where
  pixel : Nat → Nat → Bool
  vf : Byte

/-- One set sprite bit at (px, py) on a `w` × `h` bitmap: XOR, and VF = 1 at a collision (44_display.md R151, R152). -/
def Sys2Proof.Spec.plot (w h px py : Nat) (c : Spec.Canvas) : Spec.Canvas :=
  if px < w ∧ py < h then
    { pixel := fun a b => if a = px ∧ b = py then !c.pixel px py else c.pixel a b
      vf := if c.pixel px py then 0x01#8 else c.vf }
  else c

/-- The set bits (row, col) of the first `rows` rows of a sprite at I, in drawing order: row by row, and column 0 (the
MSB) to 7 in each (R151, R153). -/
def Sys2Proof.Spec.setBits (s : State) (rows : Nat) : List (Nat × Nat) :=
  (List.range rows).flatMap (fun row =>
    ((List.range 8).filter (fun col => (s.readMem (s.iReg.toNat + row)).getLsbD (7 - col))).map (fun col => (row, col)))

/-- The pixel loop of R151 over the set bits, with the coordinates read at every bit. -/
def Sys2Proof.Spec.blit (s : State) (x y : RegIdx) : List (Nat × Nat) → Spec.Canvas → Spec.Canvas
  | [], c => c
  | (row, col) :: rest, c =>
    Spec.blit s x y rest
      (Spec.plot s.cfg.displayWidth s.cfg.displayHeight
        ((Spec.readAfterFlag s c.vf x).toNat + col) ((Spec.readAfterFlag s c.vf y).toNat + row) c)

/-- The Display operations of that loop: the query and then the draw of each set bit inside the bitmap (R151, R153). -/
def Sys2Proof.Spec.blitCalls (s : State) (x y : RegIdx) : List (Nat × Nat) → Spec.Canvas → List DeviceCall
  | [], _ => []
  | (row, col) :: rest, c =>
    let px := (Spec.readAfterFlag s c.vf x).toNat + col
    let py := (Spec.readAfterFlag s c.vf y).toNat + row
    (if px < s.cfg.displayWidth ∧ py < s.cfg.displayHeight then [.getPixel px py, .drawPixel px py (!c.pixel px py)]
      else []) ++
      Spec.blitCalls s x y rest (Spec.plot s.cfg.displayWidth s.cfg.displayHeight px py c)

/-- The set bits of the first `rows` rows cover the pixel (a, b): inside the bitmap, in one of those rows and of the 8
columns from (Vx, Vy), and the sprite bit there is 1 (R151, R152). -/
def Sys2Proof.Spec.Covers (s : State) (x y : RegIdx) (rows a b : Nat) : Prop :=
  a < s.cfg.displayWidth ∧ b < s.cfg.displayHeight ∧
    ∃ row col, row < rows ∧ col < 8 ∧ a = (s.getV x).toNat + col ∧ b = (s.getV y).toNat + row ∧
      (s.readMem (s.iReg.toNat + row)).getLsbD (7 - col) = true

/-- The coordinate registers of Dxyn keep their values while it draws: neither is VF, or all operands are read
first (R126, R151). -/
def Sys2Proof.Spec.FixedOrigin (s : State) (x y : RegIdx) : Prop :=
  (x ≠ vF ∧ y ≠ vF) ∨ s.cfg.vfOperandRead = .snapshot

/-- Every sprite row of Dxyn lies in memory, or there is none (R151, R63). -/
def Sys2Proof.Spec.SpriteInMemory (s : State) (n : Nibble) : Prop :=
  n.toNat = 0 ∨ s.iReg.toNat + n.toNat ≤ 0x1000

/-! ### Encoding (30_encoding.md) -/

/-- R81, R82, R85: no bit of an encoding is dropped: every instruction's word decodes to that instruction. -/
def Obligations.DecodeOfEncodeIsIdentity : Prop := ∀ i : Instr, decodeWord (encode i) = some i

/-- R83, R85: the decoder loses no bit of the word: a word that decodes is the encoding of what it decodes to. -/
def Obligations.EncodeOfDecodeIsIdentity : Prop := ∀ (w : Word) (i : Instr), decodeWord w = some i → encode i = w

/-- R85, R86, R87: an instruction is decoded only from a word that matches its row of the opcode map; a word decodes
to nothing exactly when it matches no row; and no word matches two rows. -/
def Obligations.DecodeFollowsOpcodeMap : Prop :=
  ∀ w : Word,
    (∀ i, decodeWord w = some i → matchesRow w (rowOf i) = true) ∧
    (decodeWord w = none ↔ ∀ r ∈ opcodeMap, matchesRow w r = false) ∧
    (∀ r ∈ opcodeMap, ∀ q ∈ opcodeMap, matchesRow w r = true → matchesRow w q = true → r = q)

/-- R83: the fields of every 16-bit word are the shifts and masks the rule gives. -/
def Obligations.FieldsAreShiftsAndMasks : Prop :=
  ∀ w : Word,
    (fieldFirst w).toNat = w.toNat >>> 12 ∧ (fieldNnn w).toNat = w.toNat &&& 0xFFF ∧
    (fieldKk w).toNat = w.toNat &&& 0xFF ∧ (fieldX w).toNat = (w.toNat >>> 8) &&& 0xF ∧
    (fieldY w).toNat = (w.toNat >>> 4) &&& 0xF ∧ (fieldN w).toNat = w.toNat &&& 0xF

/-- R85, R87: words written out by hand from the opcode map (and the test vectors S1 and T1 of 95_test_vectors.md)
decode as they should. A sanity statement. (That 0x01E0 is no instruction is the spec's decision D4, and that 0x8121 and
0x5120 are none is D27: logs 13, 25.) -/
def Obligations.WrittenOutWordsDecode : Prop :=
  decodeWord 0xABCD#16 = some (.ldINnn 0xBCD) ∧ decodeWord 0x00EE#16 = some .ret ∧
  decodeWord 0x1FFF#16 = some (.jp 0xFFF) ∧ decodeWord 0x8256#16 = some (.shrVx 2 5) ∧
  decodeWord 0xD125#16 = some (.drw 1 2 5) ∧ decodeWord 0xE19E#16 = some (.skp 1) ∧
  decodeWord 0xF10A#16 = some (.ldVxK 1) ∧ decodeWord 0xF265#16 = some (.ldVxMem 2) ∧
  decodeWord 0x8121#16 = none ∧ decodeWord 0x5120#16 = none ∧ decodeWord 0x01E0#16 = none ∧ decodeWord 0x0000#16 = none

/-! ### The step (40_dispatch.md) -/

/-- R101, R64: the fetch reads the two bytes at pc and pc + 1, most significant first, at any pc, odd or even; it does
not wrap, and the first address above 0xFFF stops it. (No wrap and odd pc are the spec's decisions D20 and D21: logs
14, 30.) -/
def Obligations.FetchReadsTwoBytesBigEndian : Prop :=
  ∀ s : State,
    (s.pc.toNat < 0xFFF → ∃ w, fetch s = .word w ∧
      w.toNat = 256 * (s.readMem s.pc.toNat).toNat + (s.readMem (s.pc.toNat + 1)).toNat) ∧
    (s.pc.toNat = 0xFFF → fetch s = .outside 0x1000) ∧
    (0xFFF < s.pc.toNat → fetch s = .outside s.pc.toNat)

/-- R100: a machine that holds no fault, with the bytes of a well-formed instruction at pc, runs exactly that
instruction. -/
def Obligations.StepRunsTheDecodedInstruction : Prop :=
  ∀ (s : State) (i : Instr), s.faultLatch = none → s.pc.toNat < 0xFFF → i.wellFormed = true →
    decodeBytes [s.readMem s.pc.toNat, s.readMem (s.pc.toNat + 1)] = .ok (i, []) → step s = exec i s

/-- R101, R103, R105, R175: when a step runs no instruction. A halted machine refuses it; a fetch above 0xFFF and a
word of no row fault, with the record latched, nothing else written and pc not advanced. (The faults' form is the
spec's decisions D5, D8, D20: logs 1, 2, 14.) -/
def Obligations.StepStopsWithoutAnInstruction : Prop :=
  ∀ s : State,
    (∀ r, s.faultLatch = some r → step s = .refused (.halted r)) ∧
    (s.faultLatch = none → ∀ addr, fetch s = .outside addr →
      step s = .fault (.memoryOutOfRange addr .fetch (Spec.haltedAt (.memoryOutOfRange addr .fetch) s))) ∧
    (s.faultLatch = none → ∀ w, fetch s = .word w → decodeWord w = none →
      step s = .fault (.unknownInstruction w (Spec.haltedAt (.unknownInstruction w) s)))

/-- R170, R176, R40, R105, R202: every fault of a step latches its own record with the faulting instruction's address
and the code of its kind, leaves pc there and the key latch and the audio level as they were, and halts the machine
until `reset()`, which clears the latch. Only a read out of memory may leave the bitmap changed: the rows that Dxyn drew
before it. (The record, its codes and the latch are the spec's decision D8: logs 1, 2, 4.) -/
def Obligations.EveryFaultLatchesAndHalts : Prop :=
  ∀ (s : State) (f : Fault), step s = .fault f →
    f.halted.faultLatch = some ⟨f.kind, s.pc⟩ ∧ f.halted.pc = s.pc ∧
    ((∃ raw, f.kind = .unknownInstruction raw ∧ f.kind.code = 1) ∨
     (∃ addr access, f.kind = .memoryOutOfRange addr access ∧ f.kind.code = 2) ∨
     (f.kind = .stackOverflow s.sp ∧ f.kind.code = 3) ∨ (f.kind = .stackUnderflow s.sp ∧ f.kind.code = 4)) ∧
    ((∀ a b, f.halted.getPixel a b = s.getPixel a b) ∨ ∃ addr, f.kind = .memoryOutOfRange addr .read) ∧
    f.halted.keyLatch = s.keyLatch ∧ f.halted.audio = s.audio ∧ f.halted.cfg = s.cfg ∧
    step f.halted = .refused (.halted ⟨f.kind, s.pc⟩) ∧ (resetPort f.halted).faultLatch = none

/-- R170: which instruction raises which fault. Nothing but 2nnn overflows the stack, nothing but 00EE underflows it,
nothing but Dxyn and Fx65 (reading) and Fx33 and Fx55 (writing) goes out of memory, and no instruction raises
UnknownInstruction. -/
def Obligations.FaultsComeOnlyFromTheirInstructions : Prop :=
  ∀ (i : Instr) (s : State) (f : Fault), exec i s = .fault f →
    (f.kind = .stackUnderflow s.sp ∧ i = .ret) ∨
    (f.kind = .stackOverflow s.sp ∧ ∃ nnn, i = .call nnn) ∨
    (∃ addr, 0xFFF < addr ∧ f.kind = .memoryOutOfRange addr .read ∧
      ((∃ x y n, i = .drw x y n) ∨ ∃ x, i = .ldVxMem x)) ∨
    (∃ addr, 0xFFF < addr ∧ f.kind = .memoryOutOfRange addr .write ∧ ((∃ x, i = .ldBVx x) ∨ ∃ x, i = .ldMemVx x))

/-! ### Control transfer (41_flow.md) -/

/-- R110: RET pops the entry below sp into pc as it stands and keeps the entry; with sp = 0 it faults and writes
nothing (decision D7, log 15). sp above 16 never occurs (R36); the model refuses it by name (log 28). -/
def Obligations.RetPopsOrUnderflows : Prop :=
  decodeWord 0x00EE#16 = some .ret ∧
  ∀ s : State,
    (∀ j : Fin 16, s.sp.toNat = j.val + 1 → ∃ t, exec .ret s = .next t ∧
      t.sp.toNat = j.val ∧ t.pc = s.getStack j ∧ UnchangedBut [.sp] s t) ∧
    (s.sp.toNat = 0 → exec .ret s = .fault (.stackUnderflow s.sp (Spec.haltedAt (.stackUnderflow s.sp) s))) ∧
    (16 < s.sp.toNat → exec .ret s = .refused (.illegalStackPointer s.sp))

/-- R111: JP sets pc to nnn and changes nothing else. -/
def Obligations.JpSetsPc : Prop :=
  ∀ (nnn : Addr12) (s : State), decodeWord (wordNnn 0x1000#16 nnn) = some (.jp nnn) ∧
    ∃ t, exec (.jp nnn) s = .next t ∧ t.pc.toNat = nnn.toNat ∧ UnchangedBut [] s t

/-- R112: CALL pushes p + 2 at sp, increments sp and jumps; with the stack full it faults and writes nothing
(decision D6, log 15). -/
def Obligations.CallPushesOrOverflows : Prop :=
  ∀ (nnn : Addr12) (s : State), decodeWord (wordNnn 0x2000#16 nnn) = some (.call nnn) ∧
    (∀ j : Fin 16, s.sp.toNat = j.val → ∃ t, exec (.call nnn) s = .next t ∧
      t.getStack j = s.pc + 2#16 ∧ t.sp.toNat = j.val + 1 ∧ t.pc.toNat = nnn.toNat ∧
      UnchangedBut [.sp, .stack j.val] s t) ∧
    (16 ≤ s.sp.toNat →
      exec (.call nnn) s = .fault (.stackOverflow s.sp (Spec.haltedAt (.stackOverflow s.sp) s)))

/-- R113, R114: SE skips the next word exactly when Vx = kk, SNE exactly when Vx ≠ kk; nothing but pc changes. -/
def Obligations.ImmediateSkips : Prop :=
  ∀ (x : RegIdx) (kk : Byte) (s : State),
    decodeWord (wordXKk 0x3000#16 x kk) = some (.seVxKk x kk) ∧
    decodeWord (wordXKk 0x4000#16 x kk) = some (.sneVxKk x kk) ∧
    (∃ t, exec (.seVxKk x kk) s = .next t ∧ UnchangedBut [] s t ∧
      (s.getV x = kk → t.pc = s.pc + 4#16) ∧ (s.getV x ≠ kk → t.pc = s.pc + 2#16)) ∧
    (∃ t, exec (.sneVxKk x kk) s = .next t ∧ UnchangedBut [] s t ∧
      (s.getV x ≠ kk → t.pc = s.pc + 4#16) ∧ (s.getV x = kk → t.pc = s.pc + 2#16))

/-- R110, R112: a CALL with room on the stack and then a RET come back to the word after the CALL with the stack
pointer as it was. -/
def Obligations.RetUndoesCall : Prop :=
  ∀ (nnn : Addr12) (s : State), s.sp.toNat < 16 →
    ∃ t u, exec (.call nnn) s = .next t ∧ exec .ret t = .next u ∧ u.pc = s.pc + 2#16 ∧ u.sp = s.sp

/-- R212: at a self-jump every step leaves the state as it is. (That this is the end of a run is the spec's decision
D29: log 32.) -/
def Obligations.SelfJumpIsAFixedPoint : Prop :=
  ∀ (s : State) (k : Nat), AtSelfJump s → Host.Core.run core k s = .next s

/-! ### Registers and ALU (42_alu.md) -/

/-- R120, R122: LD Vx, kk and LD Vx, Vy write Vx and nothing else. -/
def Obligations.LoadsIntoVx : Prop :=
  ∀ (x y : RegIdx) (kk : Byte) (s : State),
    decodeWord (wordXKk 0x6000#16 x kk) = some (.ldVxKk x kk) ∧
    decodeWord (wordXY 0x8000#16 x y) = some (.ldVxVy x y) ∧
    (∃ t, exec (.ldVxKk x kk) s = .next t ∧ t.getV x = kk ∧ t.pc = s.pc + 2#16 ∧ UnchangedBut [.v x] s t) ∧
    (∃ t, exec (.ldVxVy x y) s = .next t ∧ t.getV x = s.getV y ∧ t.pc = s.pc + 2#16 ∧ UnchangedBut [.v x] s t)

/-- R121: ADD Vx, kk adds mod 256 and writes no flag. -/
def Obligations.AddImmediateWraps : Prop :=
  ∀ (x : RegIdx) (kk : Byte) (s : State),
    decodeWord (wordXKk 0x7000#16 x kk) = some (.addVxKk x kk) ∧
    ∃ t, exec (.addVxKk x kk) s = .next t ∧ (t.getV x).toNat = ((s.getV x).toNat + kk.toNat) % 256 ∧
      t.pc = s.pc + 2#16 ∧ UnchangedBut [.v x] s t

/-- R123, R124: AND and XOR combine Vx and Vy bit by bit and write no flag. -/
def Obligations.LogicOnVx : Prop :=
  ∀ (x y : RegIdx) (s : State),
    decodeWord (wordXY 0x8002#16 x y) = some (.andVxVy x y) ∧
    decodeWord (wordXY 0x8003#16 x y) = some (.xorVxVy x y) ∧
    (∃ t, exec (.andVxVy x y) s = .next t ∧ t.pc = s.pc + 2#16 ∧ UnchangedBut [.v x] s t ∧
      ∀ b < 8, (t.getV x).getLsbD b = ((s.getV x).getLsbD b && (s.getV y).getLsbD b)) ∧
    (∃ t, exec (.xorVxVy x y) s = .next t ∧ t.pc = s.pc + 2#16 ∧ UnchangedBut [.v x] s t ∧
      ∀ b < 8, (t.getV x).getLsbD b = ((s.getV x).getLsbD b != (s.getV y).getLsbD b))

/-- R127: ADD Vx, Vy: VF is the carry and Vx the low byte of the sum of the registers before the instruction; with
x = F the result lands last and VF holds it, under both values of VF_OPERAND_READ. (The order of the writes is the
spec's decision D1: log 8.) -/
def Obligations.AddWritesCarryThenSum : Prop :=
  ∀ (x y : RegIdx) (s : State),
    decodeWord (wordXY 0x8004#16 x y) = some (.addVxVy x y) ∧
    ∃ t, exec (.addVxVy x y) s = .next t ∧
      (t.getV x).toNat = ((s.getV x).toNat + (s.getV y).toNat) % 256 ∧
      (x ≠ vF → t.getV vF = if (s.getV x).toNat + (s.getV y).toNat > 255 then 0x01#8 else 0x00#8) ∧
      t.pc = s.pc + 2#16 ∧ UnchangedBut [.v vF, .v x] s t

/-- R128, R126: SUB Vx, Vy: VF is 1 exactly when Vx > Vy, then Vx is the difference mod 256 of the operands as
VF_OPERAND_READ reads them; with x = F the result lands last. (The order of the writes and the parameter are the
spec's decision D1: log 8.) -/
def Obligations.SubWritesGreaterThenDifference : Prop :=
  ∀ (x y : RegIdx) (s : State) (flag : Byte),
    flag = (if (s.getV x).toNat > (s.getV y).toNat then 0x01#8 else 0x00#8) →
    decodeWord (wordXY 0x8005#16 x y) = some (.subVxVy x y) ∧
    ∃ t, exec (.subVxVy x y) s = .next t ∧
      (t.getV x).toNat =
        ((Spec.readAfterFlag s flag x).toNat + (256 - (Spec.readAfterFlag s flag y).toNat)) % 256 ∧
      (x ≠ vF → t.getV vF = flag) ∧ t.pc = s.pc + 2#16 ∧ UnchangedBut [.v vF, .v x] s t

/-- R129, R126: SHR Vx: VF is bit 0 of Vx before the shift, then Vx is half the operand as VF_OPERAND_READ reads it;
y plays no part; with x = F the result lands last. (Decisions D1 and D3: logs 8, 12.) -/
def Obligations.ShrWritesBitOutThenHalf : Prop :=
  ∀ (x y : RegIdx) (s : State) (flag : Byte), flag = (if (s.getV x).toNat % 2 = 1 then 0x01#8 else 0x00#8) →
    decodeWord (wordXY 0x8006#16 x y) = some (.shrVx x y) ∧
    ∃ t, exec (.shrVx x y) s = .next t ∧ (t.getV x).toNat = (Spec.readAfterFlag s flag x).toNat / 2 ∧
      (x ≠ vF → t.getV vF = flag) ∧ t.pc = s.pc + 2#16 ∧ UnchangedBut [.v vF, .v x] s t

/-- R130, R190: RND Vx, kk writes a byte drawn from the random source, masked by kk: a bit clear in kk is clear in the
result whatever the draw. The draw is the free value `Config.randomByte s.draws`, of which nothing is known, and the
next draw is another one (decision D13, the model's log 3). -/
def Obligations.RndMasksAFreshDraw : Prop :=
  ∀ (x : RegIdx) (kk : Byte) (s : State),
    decodeWord (wordXKk 0xC000#16 x kk) = some (.rndVxKk x kk) ∧
    ∃ t, exec (.rndVxKk x kk) s = .next t ∧ t.getV x = Config.randomByte s.draws &&& kk ∧
      (∀ b, kk.getLsbD b = false → (t.getV x).getLsbD b = false) ∧ t.draws = s.draws + 1 ∧
      t.pc = s.pc + 2#16 ∧ UnchangedBut [.v x, .draws] s t

/-! ### Index register and memory (43_index_memory.md) -/

/-- R140: LD I, nnn. -/
def Obligations.LoadIndexImmediate : Prop :=
  ∀ (nnn : Addr12) (s : State), decodeWord (wordNnn 0xA000#16 nnn) = some (.ldINnn nnn) ∧
    ∃ t, exec (.ldINnn nnn) s = .next t ∧ t.iReg.toNat = nnn.toNat ∧ t.pc = s.pc + 2#16 ∧ UnchangedBut [.index] s t

/-- R141: ADD I, Vx wraps at 16 bits and writes no flag (decision D14, log 16). -/
def Obligations.AddToIndexWraps : Prop :=
  ∀ (x : RegIdx) (s : State), decodeWord (wordX 0xF01E#16 x) = some (.addIVx x) ∧
    ∃ t, exec (.addIVx x) s = .next t ∧ t.iReg.toNat = (s.iReg.toNat + (s.getV x).toNat) % 65536 ∧
      t.pc = s.pc + 2#16 ∧ UnchangedBut [.index] s t

/-- R142: LD F, Vx points I at glyph Vx, five bytes each, without masking Vx. -/
def Obligations.FontGlyphAddress : Prop :=
  ∀ (x : RegIdx) (s : State), decodeWord (wordX 0xF029#16 x) = some (.ldFVx x) ∧
    ∃ t, exec (.ldFVx x) s = .next t ∧ t.iReg.toNat = (s.getV x).toNat * 5 ∧ t.pc = s.pc + 2#16 ∧
      UnchangedBut [.index] s t

/-- R143: LD B, Vx stores the three decimal digits at I, I + 1, I + 2, and leaves I and every other byte. -/
def Obligations.BcdStoresThreeDigits : Prop :=
  ∀ (x : RegIdx) (s : State), decodeWord (wordX 0xF033#16 x) = some (.ldBVx x) ∧
    (s.iReg.toNat ≤ 0xFFD → ∃ t, exec (.ldBVx x) s = .next t ∧
      (t.readMem s.iReg.toNat).toNat = (s.getV x).toNat / 100 ∧
      (t.readMem (s.iReg.toNat + 1)).toNat = (s.getV x).toNat / 10 % 10 ∧
      (t.readMem (s.iReg.toNat + 2)).toNat = (s.getV x).toNat % 10 ∧
      t.pc = s.pc + 2#16 ∧ UnchangedBut (memoryParts s.iReg.toNat 3) s t)

/-- R144: LD [I], Vx stores V0 to Vx at I to I + x, and leaves I (decision D2, log 11) and every other byte. -/
def Obligations.StoreRegistersToMemory : Prop :=
  ∀ (x : RegIdx) (s : State), decodeWord (wordX 0xF055#16 x) = some (.ldMemVx x) ∧
    (s.iReg.toNat + x.toNat ≤ 0xFFF → ∃ t, exec (.ldMemVx x) s = .next t ∧
      (∀ r : RegIdx, r.toNat ≤ x.toNat → t.readMem (s.iReg.toNat + r.toNat) = s.getV r) ∧
      t.pc = s.pc + 2#16 ∧ UnchangedBut (memoryParts s.iReg.toNat (x.toNat + 1)) s t)

/-- R145: LD Vx, [I] loads V0 to Vx from I to I + x, and leaves I (decision D2, log 11) and every other register. -/
def Obligations.LoadRegistersFromMemory : Prop :=
  ∀ (x : RegIdx) (s : State), decodeWord (wordX 0xF065#16 x) = some (.ldVxMem x) ∧
    (s.iReg.toNat + x.toNat ≤ 0xFFF → ∃ t, exec (.ldVxMem x) s = .next t ∧
      (∀ r : RegIdx, r.toNat ≤ x.toNat → t.getV r = s.readMem (s.iReg.toNat + r.toNat)) ∧
      t.pc = s.pc + 2#16 ∧ UnchangedBut (registersUpTo x) s t)

/-- R143, R144, R63, R175, R176: Fx33 and Fx55 that reach past 0xFFF fault at the first address above it. Of the bytes
at the addresses below, each holds its old value or the one the instruction stores there; nothing else changes.
(Decisions D5 and D8; which bytes were stored is a free value: logs 4, 14.) -/
def Obligations.StoresPastTheEndFault : Prop :=
  ∀ (x : RegIdx) (s : State),
    (0xFFD < s.iReg.toNat → ∃ h,
      exec (.ldBVx x) s = .fault (.memoryOutOfRange (max s.iReg.toNat 0x1000) .write h) ∧
      Spec.HaltedPartWay (.memoryOutOfRange (max s.iReg.toNat 0x1000) .write)
        (.draws :: memoryParts s.iReg.toNat (0x1000 - s.iReg.toNat)) s h ∧
      ∀ j, s.iReg.toNat + j ≤ 0xFFF →
        h.readMem (s.iReg.toNat + j) = s.readMem (s.iReg.toNat + j) ∨
        h.readMem (s.iReg.toNat + j) = bcdDigit (s.getV x) j) ∧
    (0xFFF < s.iReg.toNat + x.toNat → ∃ h,
      exec (.ldMemVx x) s = .fault (.memoryOutOfRange (max s.iReg.toNat 0x1000) .write h) ∧
      Spec.HaltedPartWay (.memoryOutOfRange (max s.iReg.toNat 0x1000) .write)
        (.draws :: memoryParts s.iReg.toNat (0x1000 - s.iReg.toNat)) s h ∧
      ∀ r : RegIdx, s.iReg.toNat + r.toNat ≤ 0xFFF →
        h.readMem (s.iReg.toNat + r.toNat) = s.readMem (s.iReg.toNat + r.toNat) ∨
        h.readMem (s.iReg.toNat + r.toNat) = s.getV r)

/-- R145, R151, R63, R175, R176: Fx65 and Dxyn that reach past 0xFFF fault at the first address above it. Fx65 leaves
each register with its old value or the byte it loads. Dxyn leaves VF with its old value, 0, or 1, and 1 only where the
pixel loop over the rows in memory turns a pixel off; it leaves each pixel with its old value or one that this loop draws
there; with a fixed origin, a pixel that those rows do not cover keeps its value. Nothing else changes.
(Decisions D1, D5, D8, D15; what survives is a free value: logs 4, 8, 14, 17.) -/
def Obligations.ReadsPastTheEndFault : Prop :=
  (∀ (x : RegIdx) (s : State), 0xFFF < s.iReg.toNat + x.toNat → ∃ h,
      exec (.ldVxMem x) s = .fault (.memoryOutOfRange (max s.iReg.toNat 0x1000) .read h) ∧
      Spec.HaltedPartWay (.memoryOutOfRange (max s.iReg.toNat 0x1000) .read) (.draws :: registersUpTo x) s h ∧
      ∀ r : RegIdx, h.getV r = s.getV r ∨
        (s.iReg.toNat + r.toNat ≤ 0xFFF ∧ h.getV r = s.readMem (s.iReg.toNat + r.toNat))) ∧
  (∀ (x y : RegIdx) (n : Nibble) (s : State), ¬ Spec.SpriteInMemory s n → ∃ h,
      exec (.drw x y n) s = .fault (.memoryOutOfRange (max s.iReg.toNat 0x1000) .read h) ∧
      Spec.HaltedPartWay (.memoryOutOfRange (max s.iReg.toNat 0x1000) .read) [.draws, .v vF, .display] s h ∧
      (h.getV vF = s.getV vF ∨ h.getV vF = 0x00#8 ∨
        (h.getV vF = 0x01#8 ∧ ∃ a b, .drawPixel a b false ∈
          Spec.blitCalls s x y (Spec.setBits s (0x1000 - s.iReg.toNat)) ⟨s.getPixel, 0x00#8⟩)) ∧
      (∀ a b, h.getPixel a b = s.getPixel a b ∨
        .drawPixel a b (h.getPixel a b) ∈
          Spec.blitCalls s x y (Spec.setBits s (0x1000 - s.iReg.toNat)) ⟨s.getPixel, 0x00#8⟩) ∧
      (Spec.FixedOrigin s x y → ∀ a b,
        ¬Spec.Covers s x y (0x1000 - s.iReg.toNat) a b → h.getPixel a b = s.getPixel a b))

/-- A byte after Fx55: the register stored there, or the byte as it was (43_index_memory.md R144). -/
def Sys2Proof.Spec.afterStore (s : State) (x : RegIdx) (a : Nat) : Byte :=
  if s.iReg.toNat ≤ a ∧ a ≤ s.iReg.toNat + x.toNat then s.getV (BitVec.ofNat 4 (a - s.iReg.toNat)) else s.readMem a

/-- A byte after Fx33: the digit stored there, or the byte as it was (43_index_memory.md R143). -/
def Sys2Proof.Spec.afterBcd (s : State) (x : RegIdx) (a : Nat) : Byte :=
  let v := (s.getV x).toNat
  if a = s.iReg.toNat then BitVec.ofNat 8 (v / 100)
  else if a = s.iReg.toNat + 1 then BitVec.ofNat 8 (v / 10 % 10)
  else if a = s.iReg.toNat + 2 then BitVec.ofNat 8 (v % 10)
  else s.readMem a

/-- R73, R209: a store is seen by the next fetch. After Fx55 and after Fx33, wherever I points, the next fetch reads the
two bytes that follow the instruction, each as the store left it. (That the fetch is coherent with stores is the spec's
decision D19: log 21.) -/
def Obligations.NextFetchSeesTheStore : Prop :=
  ∀ (x : RegIdx) (s t : State), s.pc.toNat + 3 ≤ 0xFFF →
    (exec (.ldMemVx x) s = .next t →
      fetch t = .word (wordOfBytes (Spec.afterStore s x (s.pc.toNat + 2)) (Spec.afterStore s x (s.pc.toNat + 3)))) ∧
    (exec (.ldBVx x) s = .next t →
      fetch t = .word (wordOfBytes (Spec.afterBcd s x (s.pc.toNat + 2)) (Spec.afterBcd s x (s.pc.toNat + 3))))

/-! ### Display (44_display.md) -/

/-- R150: CLS turns every pixel off and changes nothing else. Only the word 0x00E0 is CLS, and a word 0x0xE0 with x ≠ 0
is unknown (decision D4, log 13). -/
def Obligations.ClsBlanksTheDisplay : Prop :=
  decodeWord 0x00E0#16 = some .cls ∧ (∀ w, decodeWord w = some .cls → w = 0x00E0#16) ∧
  (∀ x : RegIdx, x ≠ 0#4 → decodeWord (wordX 0x00E0#16 x) = none) ∧ ∀ s : State, ∃ t, exec .cls s = .next t ∧ (∀ a b, t.getPixel a b = false) ∧ t.pc = s.pc + 2#16 ∧
    UnchangedBut [.display] s t

/-- R151: DRW with its rows in memory completes for every x, y and n, VF included, and changes nothing but VF, the
bitmap and pc; VF ends 0 or 1. -/
def Obligations.DrwCompletes : Prop :=
  ∀ (x y : RegIdx) (n : Nibble) (s : State),
    decodeWord (wordXYN 0xD000#16 x y n) = some (.drw x y n) ∧
    (Spec.SpriteInMemory s n → ∃ t, exec (.drw x y n) s = .next t ∧
      (t.getV vF = 0x00#8 ∨ t.getV vF = 0x01#8) ∧ t.pc = s.pc + 2#16 ∧ UnchangedBut [.v vF, .display] s t)

/-- R151, R126, R152: DRW leaves the bitmap and VF that the rule's pixel loop gives, run on the bitmap as a function of
the coordinates from VF = 0, for every x and y, VF included, and under both values of VF_OPERAND_READ. (Exact
coordinates are decision D15, the parameter D1: logs 8, 17.) -/
def Obligations.DrwFollowsThePixelLoop : Prop :=
  ∀ (x y : RegIdx) (n : Nibble) (s : State), Spec.SpriteInMemory s n → ∃ t, exec (.drw x y n) s = .next t ∧
    t.getV vF = (Spec.blit s x y (Spec.setBits s n.toNat) ⟨s.getPixel, 0x00#8⟩).vf ∧
    ∀ a b, t.getPixel a b = (Spec.blit s x y (Spec.setBits s n.toNat) ⟨s.getPixel, 0x00#8⟩).pixel a b

/-- R151, R152: with a fixed origin, DRW is an exclusive or: it flips exactly the pixels inside the bitmap that a set
sprite bit covers, and VF is 1 exactly when one of those was on. Nothing wraps. (Decisions D1, D15: logs 8, 17.) -/
def Obligations.DrwFlipsExactlyTheCoveredPixels : Prop :=
  ∀ (x y : RegIdx) (n : Nibble) (s : State), Spec.SpriteInMemory s n → Spec.FixedOrigin s x y →
    ∃ t, exec (.drw x y n) s = .next t ∧
      (∀ a b, (Spec.Covers s x y n.toNat a b → t.getPixel a b = !s.getPixel a b) ∧
        (¬ Spec.Covers s x y n.toNat a b → t.getPixel a b = s.getPixel a b)) ∧
      (t.getV vF = 0x01#8 ↔ ∃ a b, Spec.Covers s x y n.toNat a b ∧ s.getPixel a b = true)

/-- R154, the collision law's first half. A sprite drawn twice at one place, neither x nor y VF, leaves every pixel as it was, and
the second draw sets VF to 1 exactly when the first turned a pixel on; on a blank bitmap the first draw leaves VF 0. -/
def Obligations.DrawingTwiceRestoresTheBitmap : Prop :=
  ∀ (x y : RegIdx) (n : Nibble) (s : State), Spec.SpriteInMemory s n → x ≠ vF → y ≠ vF →
    ∃ t u, exec (.drw x y n) s = .next t ∧ exec (.drw x y n) t = .next u ∧
      (∀ a b, u.getPixel a b = s.getPixel a b) ∧
      (u.getV vF = 0x01#8 ↔ ∃ a b, s.getPixel a b = false ∧ t.getPixel a b = true) ∧
      ((∀ a b, s.getPixel a b = false) → t.getV vF = 0x00#8)

/-- R154, the collision law's second half: on a blank bitmap a first sprite is drawn, then a second one, from any state
`u` with the bitmap the first one left (its registers, I and memory may have changed). If no pixel is covered by both,
VF is 0 after each draw. Each has a fixed origin. (Decisions D1, D15: logs 8, 17.) -/
def Obligations.NonOverlappingSpritesDoNotCollide : Prop :=
  ∀ (x y x' y' : RegIdx) (n n' : Nibble) (s u : State),
    (∀ a b, s.getPixel a b = false) → Spec.SpriteInMemory s n → Spec.FixedOrigin s x y →
    Spec.SpriteInMemory u n' → Spec.FixedOrigin u x' y' →
    (∀ a b, ¬(Spec.Covers s x y n.toNat a b ∧ Spec.Covers u x' y' n'.toNat a b)) →
    ∃ t, exec (.drw x y n) s = .next t ∧ t.getV vF = 0x00#8 ∧
      ((∀ a b, u.getPixel a b = t.getPixel a b) → ∃ r, exec (.drw x' y' n') u = .next r ∧ r.getV vF = 0x00#8)

/-- R153: the Display operations of DRW with a fixed origin, in order: for each set bit that lands inside the bitmap,
one query of its pixel and then one draw of the opposite value. (The order is decision D25, the exact coordinates D15,
the parameter behind the fixed origin D1: logs 8, 17, 24.) -/
def Obligations.DrwQueriesThenDrawsEachPixel : Prop :=
  ∀ (x y : RegIdx) (n : Nibble) (s : State), Spec.SpriteInMemory s n → Spec.FixedOrigin s x y →
    deviceCalls (.drw x y n) s =
      (((Spec.setBits s n.toNat).map (fun rc => ((s.getV x).toNat + rc.2, (s.getV y).toNat + rc.1))).filter
        (fun p => decide (p.1 < s.cfg.displayWidth ∧ p.2 < s.cfg.displayHeight))).flatMap
        (fun p => [.getPixel p.1 p.2, .drawPixel p.1 p.2 (!s.getPixel p.1 p.2)])

/-! ### Keyboard and timers (45_keys_timers.md, 60_exceptions.md §3) -/

/-- R160, R161: SKP skips exactly when the key latch equals Vx, SKNP exactly when it differs; all 8 bits count and
nothing but pc changes. -/
def Obligations.KeySkips : Prop :=
  ∀ (x : RegIdx) (s : State),
    decodeWord (wordX 0xE09E#16 x) = some (.skp x) ∧ decodeWord (wordX 0xE0A1#16 x) = some (.sknp x) ∧
    (∃ t, exec (.skp x) s = .next t ∧ UnchangedBut [] s t ∧
      (s.keyLatch = s.getV x → t.pc = s.pc + 4#16) ∧ (s.keyLatch ≠ s.getV x → t.pc = s.pc + 2#16)) ∧
    (∃ t, exec (.sknp x) s = .next t ∧ UnchangedBut [] s t ∧
      (s.keyLatch ≠ s.getV x → t.pc = s.pc + 4#16) ∧ (s.keyLatch = s.getV x → t.pc = s.pc + 2#16))

/-- R162: LD Vx, DT reads the delay timer. -/
def Obligations.ReadDelayTimer : Prop :=
  ∀ (x : RegIdx) (s : State), decodeWord (wordX 0xF007#16 x) = some (.ldVxDt x) ∧
    ∃ t, exec (.ldVxDt x) s = .next t ∧ t.getV x = s.dt ∧ t.pc = s.pc + 2#16 ∧ UnchangedBut [.v x] s t

/-- R163, R41, R106: LD Vx, K with a key writes it and advances; with no key it writes nothing and stays, so that the
next step runs it again. (pc stays for every pc by decision D22: log 22.) -/
def Obligations.WaitForKey : Prop :=
  ∀ (x : RegIdx) (s : State), decodeWord (wordX 0xF00A#16 x) = some (.ldVxK x) ∧
    (s.keyLatch = 0x00#8 → exec (.ldVxK x) s = .next s) ∧
    (s.keyLatch ≠ 0x00#8 → ∃ t, exec (.ldVxK x) s = .next t ∧ t.getV x = s.keyLatch ∧ t.pc = s.pc + 2#16 ∧
      UnchangedBut [.v x] s t)

/-- R164, R165, R182: LD DT, Vx and LD ST, Vx set a timer and nothing else; neither calls a device, so no Audio
operation. -/
def Obligations.SetTimers : Prop :=
  ∀ (x : RegIdx) (s : State),
    decodeWord (wordX 0xF015#16 x) = some (.ldDtVx x) ∧ decodeWord (wordX 0xF018#16 x) = some (.ldStVx x) ∧
    (∃ t, exec (.ldDtVx x) s = .next t ∧ t.dt = s.getV x ∧ t.pc = s.pc + 2#16 ∧ UnchangedBut [.dt] s t) ∧
    (∃ t, exec (.ldStVx x) s = .next t ∧ t.st = s.getV x ∧ t.pc = s.pc + 2#16 ∧ UnchangedBut [.st] s t) ∧
    deviceCalls (.ldDtVx x) s = [] ∧ deviceCalls (.ldStVx x) s = []

/-- R181, R182, R38: a tick counts each timer down by one with floor 0, and the audio level is on exactly when the
sound timer is positive after it; after k ticks a timer has lost k or is 0; a tick writes no register, no pc and no
memory, on a halted machine too (decision D18, log 20). -/
def Obligations.TicksCountDownToZero : Prop :=
  ∀ (s : State) (k : Nat),
    (tickTimers^[k] s).dt.toNat = s.dt.toNat - k ∧ (tickTimers^[k] s).st.toNat = s.st.toNat - k ∧
    (0 < k → ((tickTimers^[k] s).audio = true ↔ 0 < (tickTimers^[k] s).st.toNat)) ∧
    (tickTimers^[k] s).pc = s.pc ∧
    UnchangedBut [.dt, .st] s { tickTimers^[k] s with audio := s.audio } ∧
    tickCalls s = [if 0 < (tickTimers s).st.toNat then .startSound else .stopSound]

/-! ### Whole-machine rules -/

/-- R36, R37, R33, R38, R62, R42, R43, R44, R40, R185: who writes what. When an instruction completes: sp changes only by
2nnn and 00EE, the stack only by 2nnn, I only by Annn, Fx1E and Fx29, DT only by Fx15, ST only by Fx18, memory only by
Fx33 and Fx55, the bitmap only by 00E0 and Dxyn; the key latch, the audio level, the fault latch and the parameters by
none. (That Fx55 and Fx65 leave I is the spec's decision D2: log 11.) -/
def Obligations.OnlyTheNamedInstructionsWrite : Prop :=
  ∀ (i : Instr) (s t : State), exec i s = .next t →
    (t.sp ≠ s.sp → i = .ret ∨ ∃ nnn, i = .call nnn) ∧ (t.stack ≠ s.stack → ∃ nnn, i = .call nnn) ∧
    (t.iReg ≠ s.iReg → (∃ nnn, i = .ldINnn nnn) ∨ (∃ x, i = .addIVx x) ∨ ∃ x, i = .ldFVx x) ∧
    (t.dt ≠ s.dt → ∃ x, i = .ldDtVx x) ∧ (t.st ≠ s.st → ∃ x, i = .ldStVx x) ∧
    (t.mem ≠ s.mem → (∃ x, i = .ldBVx x) ∨ ∃ x, i = .ldMemVx x) ∧
    (t.display ≠ s.display → i = .cls ∨ ∃ x y n, i = .drw x y n) ∧
    t.keyLatch = s.keyLatch ∧ t.audio = s.audio ∧ t.faultLatch = s.faultLatch ∧ t.cfg = s.cfg

/-- R32, R31: VF is written as a flag only by 8xy4, 8xy5, 8xy6 and Dxyn. Any other instruction that completes changes VF
only by naming it as its destination x, or by loading it (Fx65 with x = F). -/
def Obligations.OnlyFourInstructionsWriteTheFlag : Prop :=
  ∀ (i : Instr) (s t : State), exec i s = .next t → t.getV vF ≠ s.getV vF →
    (∃ x y, i = .addVxVy x y ∨ i = .subVxVy x y ∨ i = .shrVx x y) ∨ (∃ x y n, i = .drw x y n) ∨
    (∃ kk, i = .ldVxKk vF kk ∨ i = .addVxKk vF kk ∨ i = .rndVxKk vF kk) ∨
    (∃ y, i = .ldVxVy vF y ∨ i = .andVxVy vF y ∨ i = .xorVxVy vF y) ∨
    i = .ldVxDt vF ∨ i = .ldVxK vF ∨ i = .ldVxMem vF

/-- R38: no instruction reads the sound timer. An instruction that completes from `s` completes from `s` with any other
sound timer, with the same effect on everything else; only Fx18 writes it. -/
def Obligations.NoInstructionReadsTheSoundTimer : Prop :=
  ∀ (i : Instr) (s t : State) (b : Byte), exec i s = .next t →
    (∃ x, i = .ldStVx x) ∨ exec i { s with st := b } = .next { t with st := b }

/-! ### The host's ports (70_reset_and_hazards.md) -/

/-- R34, R200, R201, R207: the machine after power-on and reset: pc = 0x200, no fault, a blank display. The key latch at 0
is the spec's decision D17 (log 19), the zeros of the registers, the stack, the timers and memory are its decisions D11
and D12 (logs 9, 10), and the font and the parameters its defaults D1, D9 and D10 (logs 6, 7, 8). -/
def Obligations.ResetStateIsThePowerOnState : Prop :=
  State.reset.pc = 0x0200#16 ∧ State.reset.faultLatch = none ∧ State.reset.keyLatch = 0x00#8 ∧
  (∀ a b, State.reset.getPixel a b = false) ∧ (∀ r, State.reset.getV r = 0x00#8) ∧
  State.reset.iReg = 0x0000#16 ∧ State.reset.sp = 0x00#8 ∧ (∀ j, State.reset.getStack j = 0x0000#16) ∧
  State.reset.dt = 0x00#8 ∧ State.reset.st = 0x00#8 ∧
  (∀ a, State.reset.readMem a = Config.standardFont.getD a 0x00#8) ∧
  State.reset.cfg = ⟨64, 32, Config.standardFont, .sequential⟩

/-- R201, R202, R203: `reset()` from any state, halted or not: registers, stack and timers 0, pc 0x200, a blank display,
the font region rewritten, no fault; the rest of memory, the key latch, the audio level and the parameters untouched.
(The zeros are decision D11, the font D10, the cleared fault latch D8, the key latch left alone D17, the audio level left
alone D26: logs 1, 5, 7, 9, 19.) -/
def Obligations.ResetPortReinitialises : Prop :=
  ∀ s : State, s.cfg.fontFits = true →
    (∀ r, (resetPort s).getV r = 0x00#8) ∧ (resetPort s).iReg = 0x0000#16 ∧ (resetPort s).pc = 0x0200#16 ∧
    (resetPort s).sp = 0x00#8 ∧ (∀ j, (resetPort s).getStack j = 0x0000#16) ∧
    (resetPort s).dt = 0x00#8 ∧ (resetPort s).st = 0x00#8 ∧ (∀ a b, (resetPort s).getPixel a b = false) ∧
    (resetPort s).faultLatch = none ∧
    (∀ a, (resetPort s).readMem a =
      if a < s.cfg.fontImage.length then s.cfg.fontImage.getD a 0x00#8 else s.readMem a) ∧
    (resetPort s).keyLatch = s.keyLatch ∧ (resetPort s).audio = s.audio ∧ (resetPort s).cfg = s.cfg

/-- R204, R205, R206: `load_rom` copies its bytes to memory from 0x200 and writes nothing else, pc included; it commutes
with `reset()` as far as any read can tell; a ROM of more than 0xE00 bytes is refused (decision D23, log 23). -/
def Obligations.LoadRomCopiesFrom0x200 : Prop :=
  ∀ (bytes : List Byte) (s : State),
    (bytes.length ≤ 0xE00 → ∃ t, loadRom bytes s = .next t ∧
      (∀ j, j < bytes.length → t.readMem (0x200 + j) = bytes.getD j 0x00#8) ∧
      t.pc = s.pc ∧ UnchangedBut (memoryParts 0x200 bytes.length) s t ∧
      (s.cfg.fontFits = true → ∃ u, loadRom bytes (resetPort s) = .next u ∧
        u.pc = (resetPort t).pc ∧ UnchangedBut [] u (resetPort t))) ∧
    (0xE00 < bytes.length → loadRom bytes s = .refused (.romTooLong bytes.length))

/-- R188, R43: `set_key(code)` writes the key latch and nothing else, and the next Fx0A sees it. -/
def Obligations.SetKeyWritesTheLatch : Prop :=
  ∀ (code : Byte) (s : State) (x : RegIdx),
    (setKey code s).keyLatch = code ∧ (setKey code s).pc = s.pc ∧
    UnchangedBut [] s { setKey code s with keyLatch := s.keyLatch } ∧
    (code ≠ 0x00#8 → ∃ t, exec (.ldVxK x) (setKey code s) = .next t ∧ t.getV x = code)

/-! ### Invariants -/

/-- R7, R35, R36, R42, R60: the power-on state of every machine whose parameters are in range satisfies the invariant,
State.reset among them. -/
def Obligations.PowerOnSatisfiesTheInvariant : Prop :=
  StateInv State.reset ∧ ∀ c : Config, c.wellFormed = true → StateInv (State.powerOn c)

/-- R35, R36, R60, R42: every step that completes keeps the invariant: memory and bitmap stay in canonical form and in
bounds, sp in 0..16, every stack entry at most 0x1000, pc at most 0x1002. -/
def Obligations.StepKeepsTheInvariant : Prop :=
  ∀ s t : State, StateInv s → step s = .next t → StateInv t

/-- R176, R191, R194: every host call keeps the invariant, a step that faults part-way included, whatever subset of its
writes survives. -/
def Obligations.EveryHostCallKeepsTheInvariant : Prop :=
  ∀ (c : HostCall) (s t : State), StateInv s → serve c s = some t → StateInv t

/-- R35, R36, R191: whatever calls the host makes and in whatever order, from power-on with parameters in range, pc is at
most 0x1002, sp at most 16, and the parameters are the ones the machine was made with. -/
def Obligations.ReachableStatesAreLegal : Prop :=
  ∀ (c : Config) (s : State), c.wellFormed = true → Reachable c s →
    s.pc.toNat ≤ 0x1002 ∧ s.sp.toNat ≤ 16 ∧ s.cfg = c

/-! ### The device operations and boot -/

/-- R150, R153, R160, R161, R163, R165, R185, R188, R190, R203: which device operation each instruction other than Dxyn
calls: 00E0 clears the display, Ex9E, ExA1 and Fx0A read the key once, Cxkk draws one random byte, and the rest call
none. `reset()` clears the display and calls no Audio operation. The size queries return the parameters, and no
instruction but Dxyn makes one: what a test double sees of any other instruction is exactly those operations, and of
Dxyn its pixel operations in order once the size queries are left out. (How often Dxyn queries the size is the model's
log 24; that reset() calls no Audio operation is the spec's decision D26, log 5.) -/
def Obligations.DeviceCallsOfEachInstruction : Prop :=
  ∀ s : State,
    deviceCalls .cls s = [.clear] ∧ resetCalls s = [.clear] ∧
    (∀ x, deviceCalls (.skp x) s = [.getKey] ∧ deviceCalls (.sknp x) s = [.getKey] ∧
      deviceCalls (.ldVxK x) s = [.getKey]) ∧
    (∀ x kk, deviceCalls (.rndVxKk x kk) s = [.randomByte]) ∧
    (∀ i, deviceCalls i s ≠ [] → i = .cls ∨ (∃ x, i = .skp x ∨ i = .sknp x ∨ i = .ldVxK x) ∨
      (∃ x kk, i = .rndVxKk x kk) ∨ ∃ x y n, i = .drw x y n) ∧
    s.getWidth = s.cfg.displayWidth ∧ s.getHeight = s.cfg.displayHeight ∧
    (∀ i trace, observable i s trace → trace.filter (fun c => !c.isSizeQuery) = deviceCalls i s ∧
      (trace = deviceCalls i s ∨ ∃ x y n, i = .drw x y n))

/-- R153, R151, R126: the Display operations of DRW for every x and y, VF included, and under both values of
VF_OPERAND_READ: the queries and draws of the rule's pixel loop, in its order. (The order is decision D25, the
parameter D1, the exact coordinates D15: logs 8, 17, 24.) -/
def Obligations.DrwCallsFollowThePixelLoop : Prop :=
  ∀ (x y : RegIdx) (n : Nibble) (s : State), Spec.SpriteInMemory s n →
    deviceCalls (.drw x y n) s = Spec.blitCalls s x y (Spec.setBits s n.toNat) ⟨s.getPixel, 0x00#8⟩

/-- R187, R194, R200, R206: boot. From devices in any state that are not initialised yet, the host initialises the
display, the keyboard and the audio once each, in any order, and then constructs the machine: it is the power-on state.
With any other list of initialisations there is no machine, and on a constructed machine an initialisation has no
meaning. (A blank bitmap and no key are decisions D16 and D17, a free audio level is D26, the zeros and the font are D10
to D12; the refusals are the model's: logs 5, 7, 9, 10, 18, 19, 33.) -/
def Obligations.BootGivesThePowerOnState : Prop :=
  ∀ (c : Config) (order : List Device) (u : Devices), u.initialized = [] →
    (order.Perm [.display, .keyboard, .audio] → boot c order u = some (State.powerOn c)) ∧
    (¬order.Perm [.display, .keyboard, .audio] → boot c order u = none) ∧
    ∀ (d : Device) (s : State), answer (.initDevice d) s = .refused (.lateInitialize d)
end

