-- ==== Sys2Proof/Laws/State.lean ====
section
/-!
SUPPORT. One lemma per field per update of State, each true by rfl, so that no proof unfolds a record update; and what
the accessors read after each update.
-/

namespace Sys2Proof.Machine

variable (s : State)

/-! ### `State.setV` -/

@[simp] theorem State.setV_v (r : RegIdx) (b : Byte) : (s.setV r b).v = s.v.set r.toNat b r.isLt := rfl
@[simp] theorem State.setV_iReg (r : RegIdx) (b : Byte) : (s.setV r b).iReg = s.iReg := rfl
@[simp] theorem State.setV_pc (r : RegIdx) (b : Byte) : (s.setV r b).pc = s.pc := rfl
@[simp] theorem State.setV_sp (r : RegIdx) (b : Byte) : (s.setV r b).sp = s.sp := rfl
@[simp] theorem State.setV_stack (r : RegIdx) (b : Byte) : (s.setV r b).stack = s.stack := rfl
@[simp] theorem State.setV_dt (r : RegIdx) (b : Byte) : (s.setV r b).dt = s.dt := rfl
@[simp] theorem State.setV_st (r : RegIdx) (b : Byte) : (s.setV r b).st = s.st := rfl
@[simp] theorem State.setV_faultLatch (r : RegIdx) (b : Byte) : (s.setV r b).faultLatch = s.faultLatch := rfl
@[simp] theorem State.setV_mem (r : RegIdx) (b : Byte) : (s.setV r b).mem = s.mem := rfl
@[simp] theorem State.setV_display (r : RegIdx) (b : Byte) : (s.setV r b).display = s.display := rfl
@[simp] theorem State.setV_keyLatch (r : RegIdx) (b : Byte) : (s.setV r b).keyLatch = s.keyLatch := rfl
@[simp] theorem State.setV_audio (r : RegIdx) (b : Byte) : (s.setV r b).audio = s.audio := rfl
@[simp] theorem State.setV_cfg (r : RegIdx) (b : Byte) : (s.setV r b).cfg = s.cfg := rfl
@[simp] theorem State.setV_draws (r : RegIdx) (b : Byte) : (s.setV r b).draws = s.draws := rfl

@[simp] theorem State.setV_getStack (r : RegIdx) (b : Byte) (i : Fin 16) : (s.setV r b).getStack i = s.getStack i := rfl
@[simp] theorem State.setV_readMem (r : RegIdx) (b : Byte) (c : Nat) : (s.setV r b).readMem c = s.readMem c := rfl
@[simp] theorem State.setV_getPixel (r : RegIdx) (b : Byte) (i j : Nat) : (s.setV r b).getPixel i j = s.getPixel i j := rfl

/-! ### `State.setI` -/

@[simp] theorem State.setI_v (a : Word) : (s.setI a).v = s.v := rfl
@[simp] theorem State.setI_iReg (a : Word) : (s.setI a).iReg = a := rfl
@[simp] theorem State.setI_pc (a : Word) : (s.setI a).pc = s.pc := rfl
@[simp] theorem State.setI_sp (a : Word) : (s.setI a).sp = s.sp := rfl
@[simp] theorem State.setI_stack (a : Word) : (s.setI a).stack = s.stack := rfl
@[simp] theorem State.setI_dt (a : Word) : (s.setI a).dt = s.dt := rfl
@[simp] theorem State.setI_st (a : Word) : (s.setI a).st = s.st := rfl
@[simp] theorem State.setI_faultLatch (a : Word) : (s.setI a).faultLatch = s.faultLatch := rfl
@[simp] theorem State.setI_mem (a : Word) : (s.setI a).mem = s.mem := rfl
@[simp] theorem State.setI_display (a : Word) : (s.setI a).display = s.display := rfl
@[simp] theorem State.setI_keyLatch (a : Word) : (s.setI a).keyLatch = s.keyLatch := rfl
@[simp] theorem State.setI_audio (a : Word) : (s.setI a).audio = s.audio := rfl
@[simp] theorem State.setI_cfg (a : Word) : (s.setI a).cfg = s.cfg := rfl
@[simp] theorem State.setI_draws (a : Word) : (s.setI a).draws = s.draws := rfl

@[simp] theorem State.setI_getV (a : Word) (q : RegIdx) : (s.setI a).getV q = s.getV q := rfl
@[simp] theorem State.setI_getStack (a : Word) (i : Fin 16) : (s.setI a).getStack i = s.getStack i := rfl
@[simp] theorem State.setI_readMem (a : Word) (c : Nat) : (s.setI a).readMem c = s.readMem c := rfl
@[simp] theorem State.setI_getPixel (a : Word) (i j : Nat) : (s.setI a).getPixel i j = s.getPixel i j := rfl

/-! ### `State.setPc` -/

@[simp] theorem State.setPc_v (a : Word) : (s.setPc a).v = s.v := rfl
@[simp] theorem State.setPc_iReg (a : Word) : (s.setPc a).iReg = s.iReg := rfl
@[simp] theorem State.setPc_pc (a : Word) : (s.setPc a).pc = a := rfl
@[simp] theorem State.setPc_sp (a : Word) : (s.setPc a).sp = s.sp := rfl
@[simp] theorem State.setPc_stack (a : Word) : (s.setPc a).stack = s.stack := rfl
@[simp] theorem State.setPc_dt (a : Word) : (s.setPc a).dt = s.dt := rfl
@[simp] theorem State.setPc_st (a : Word) : (s.setPc a).st = s.st := rfl
@[simp] theorem State.setPc_faultLatch (a : Word) : (s.setPc a).faultLatch = s.faultLatch := rfl
@[simp] theorem State.setPc_mem (a : Word) : (s.setPc a).mem = s.mem := rfl
@[simp] theorem State.setPc_display (a : Word) : (s.setPc a).display = s.display := rfl
@[simp] theorem State.setPc_keyLatch (a : Word) : (s.setPc a).keyLatch = s.keyLatch := rfl
@[simp] theorem State.setPc_audio (a : Word) : (s.setPc a).audio = s.audio := rfl
@[simp] theorem State.setPc_cfg (a : Word) : (s.setPc a).cfg = s.cfg := rfl
@[simp] theorem State.setPc_draws (a : Word) : (s.setPc a).draws = s.draws := rfl

@[simp] theorem State.setPc_getV (a : Word) (q : RegIdx) : (s.setPc a).getV q = s.getV q := rfl
@[simp] theorem State.setPc_getStack (a : Word) (i : Fin 16) : (s.setPc a).getStack i = s.getStack i := rfl
@[simp] theorem State.setPc_readMem (a : Word) (c : Nat) : (s.setPc a).readMem c = s.readMem c := rfl
@[simp] theorem State.setPc_getPixel (a : Word) (i j : Nat) : (s.setPc a).getPixel i j = s.getPixel i j := rfl

/-! ### `State.setSp` -/

@[simp] theorem State.setSp_v (b : Byte) : (s.setSp b).v = s.v := rfl
@[simp] theorem State.setSp_iReg (b : Byte) : (s.setSp b).iReg = s.iReg := rfl
@[simp] theorem State.setSp_pc (b : Byte) : (s.setSp b).pc = s.pc := rfl
@[simp] theorem State.setSp_sp (b : Byte) : (s.setSp b).sp = b := rfl
@[simp] theorem State.setSp_stack (b : Byte) : (s.setSp b).stack = s.stack := rfl
@[simp] theorem State.setSp_dt (b : Byte) : (s.setSp b).dt = s.dt := rfl
@[simp] theorem State.setSp_st (b : Byte) : (s.setSp b).st = s.st := rfl
@[simp] theorem State.setSp_faultLatch (b : Byte) : (s.setSp b).faultLatch = s.faultLatch := rfl
@[simp] theorem State.setSp_mem (b : Byte) : (s.setSp b).mem = s.mem := rfl
@[simp] theorem State.setSp_display (b : Byte) : (s.setSp b).display = s.display := rfl
@[simp] theorem State.setSp_keyLatch (b : Byte) : (s.setSp b).keyLatch = s.keyLatch := rfl
@[simp] theorem State.setSp_audio (b : Byte) : (s.setSp b).audio = s.audio := rfl
@[simp] theorem State.setSp_cfg (b : Byte) : (s.setSp b).cfg = s.cfg := rfl
@[simp] theorem State.setSp_draws (b : Byte) : (s.setSp b).draws = s.draws := rfl

@[simp] theorem State.setSp_getV (b : Byte) (q : RegIdx) : (s.setSp b).getV q = s.getV q := rfl
@[simp] theorem State.setSp_getStack (b : Byte) (i : Fin 16) : (s.setSp b).getStack i = s.getStack i := rfl
@[simp] theorem State.setSp_readMem (b : Byte) (c : Nat) : (s.setSp b).readMem c = s.readMem c := rfl
@[simp] theorem State.setSp_getPixel (b : Byte) (i j : Nat) : (s.setSp b).getPixel i j = s.getPixel i j := rfl

/-! ### `State.setStack` -/

@[simp] theorem State.setStack_v (j : Fin 16) (a : Word) : (s.setStack j a).v = s.v := rfl
@[simp] theorem State.setStack_iReg (j : Fin 16) (a : Word) : (s.setStack j a).iReg = s.iReg := rfl
@[simp] theorem State.setStack_pc (j : Fin 16) (a : Word) : (s.setStack j a).pc = s.pc := rfl
@[simp] theorem State.setStack_sp (j : Fin 16) (a : Word) : (s.setStack j a).sp = s.sp := rfl
@[simp] theorem State.setStack_stack (j : Fin 16) (a : Word) : (s.setStack j a).stack = s.stack.set j a := rfl
@[simp] theorem State.setStack_dt (j : Fin 16) (a : Word) : (s.setStack j a).dt = s.dt := rfl
@[simp] theorem State.setStack_st (j : Fin 16) (a : Word) : (s.setStack j a).st = s.st := rfl
@[simp] theorem State.setStack_faultLatch (j : Fin 16) (a : Word) : (s.setStack j a).faultLatch = s.faultLatch := rfl
@[simp] theorem State.setStack_mem (j : Fin 16) (a : Word) : (s.setStack j a).mem = s.mem := rfl
@[simp] theorem State.setStack_display (j : Fin 16) (a : Word) : (s.setStack j a).display = s.display := rfl
@[simp] theorem State.setStack_keyLatch (j : Fin 16) (a : Word) : (s.setStack j a).keyLatch = s.keyLatch := rfl
@[simp] theorem State.setStack_audio (j : Fin 16) (a : Word) : (s.setStack j a).audio = s.audio := rfl
@[simp] theorem State.setStack_cfg (j : Fin 16) (a : Word) : (s.setStack j a).cfg = s.cfg := rfl
@[simp] theorem State.setStack_draws (j : Fin 16) (a : Word) : (s.setStack j a).draws = s.draws := rfl

@[simp] theorem State.setStack_getV (j : Fin 16) (a : Word) (q : RegIdx) : (s.setStack j a).getV q = s.getV q := rfl
@[simp] theorem State.setStack_readMem (j : Fin 16) (a : Word) (c : Nat) : (s.setStack j a).readMem c = s.readMem c := rfl
@[simp] theorem State.setStack_getPixel (j : Fin 16) (a : Word) (k l : Nat) : (s.setStack j a).getPixel k l = s.getPixel k l := rfl

/-! ### `State.setDt` -/

@[simp] theorem State.setDt_v (b : Byte) : (s.setDt b).v = s.v := rfl
@[simp] theorem State.setDt_iReg (b : Byte) : (s.setDt b).iReg = s.iReg := rfl
@[simp] theorem State.setDt_pc (b : Byte) : (s.setDt b).pc = s.pc := rfl
@[simp] theorem State.setDt_sp (b : Byte) : (s.setDt b).sp = s.sp := rfl
@[simp] theorem State.setDt_stack (b : Byte) : (s.setDt b).stack = s.stack := rfl
@[simp] theorem State.setDt_dt (b : Byte) : (s.setDt b).dt = b := rfl
@[simp] theorem State.setDt_st (b : Byte) : (s.setDt b).st = s.st := rfl
@[simp] theorem State.setDt_faultLatch (b : Byte) : (s.setDt b).faultLatch = s.faultLatch := rfl
@[simp] theorem State.setDt_mem (b : Byte) : (s.setDt b).mem = s.mem := rfl
@[simp] theorem State.setDt_display (b : Byte) : (s.setDt b).display = s.display := rfl
@[simp] theorem State.setDt_keyLatch (b : Byte) : (s.setDt b).keyLatch = s.keyLatch := rfl
@[simp] theorem State.setDt_audio (b : Byte) : (s.setDt b).audio = s.audio := rfl
@[simp] theorem State.setDt_cfg (b : Byte) : (s.setDt b).cfg = s.cfg := rfl
@[simp] theorem State.setDt_draws (b : Byte) : (s.setDt b).draws = s.draws := rfl

@[simp] theorem State.setDt_getV (b : Byte) (q : RegIdx) : (s.setDt b).getV q = s.getV q := rfl
@[simp] theorem State.setDt_getStack (b : Byte) (i : Fin 16) : (s.setDt b).getStack i = s.getStack i := rfl
@[simp] theorem State.setDt_readMem (b : Byte) (c : Nat) : (s.setDt b).readMem c = s.readMem c := rfl
@[simp] theorem State.setDt_getPixel (b : Byte) (i j : Nat) : (s.setDt b).getPixel i j = s.getPixel i j := rfl

/-! ### `State.setSt` -/

@[simp] theorem State.setSt_v (b : Byte) : (s.setSt b).v = s.v := rfl
@[simp] theorem State.setSt_iReg (b : Byte) : (s.setSt b).iReg = s.iReg := rfl
@[simp] theorem State.setSt_pc (b : Byte) : (s.setSt b).pc = s.pc := rfl
@[simp] theorem State.setSt_sp (b : Byte) : (s.setSt b).sp = s.sp := rfl
@[simp] theorem State.setSt_stack (b : Byte) : (s.setSt b).stack = s.stack := rfl
@[simp] theorem State.setSt_dt (b : Byte) : (s.setSt b).dt = s.dt := rfl
@[simp] theorem State.setSt_st (b : Byte) : (s.setSt b).st = b := rfl
@[simp] theorem State.setSt_faultLatch (b : Byte) : (s.setSt b).faultLatch = s.faultLatch := rfl
@[simp] theorem State.setSt_mem (b : Byte) : (s.setSt b).mem = s.mem := rfl
@[simp] theorem State.setSt_display (b : Byte) : (s.setSt b).display = s.display := rfl
@[simp] theorem State.setSt_keyLatch (b : Byte) : (s.setSt b).keyLatch = s.keyLatch := rfl
@[simp] theorem State.setSt_audio (b : Byte) : (s.setSt b).audio = s.audio := rfl
@[simp] theorem State.setSt_cfg (b : Byte) : (s.setSt b).cfg = s.cfg := rfl
@[simp] theorem State.setSt_draws (b : Byte) : (s.setSt b).draws = s.draws := rfl

@[simp] theorem State.setSt_getV (b : Byte) (q : RegIdx) : (s.setSt b).getV q = s.getV q := rfl
@[simp] theorem State.setSt_getStack (b : Byte) (i : Fin 16) : (s.setSt b).getStack i = s.getStack i := rfl
@[simp] theorem State.setSt_readMem (b : Byte) (c : Nat) : (s.setSt b).readMem c = s.readMem c := rfl
@[simp] theorem State.setSt_getPixel (b : Byte) (i j : Nat) : (s.setSt b).getPixel i j = s.getPixel i j := rfl

/-! ### `State.setLatch` -/

@[simp] theorem State.setLatch_v (r : Option FaultRecord) : (s.setLatch r).v = s.v := rfl
@[simp] theorem State.setLatch_iReg (r : Option FaultRecord) : (s.setLatch r).iReg = s.iReg := rfl
@[simp] theorem State.setLatch_pc (r : Option FaultRecord) : (s.setLatch r).pc = s.pc := rfl
@[simp] theorem State.setLatch_sp (r : Option FaultRecord) : (s.setLatch r).sp = s.sp := rfl
@[simp] theorem State.setLatch_stack (r : Option FaultRecord) : (s.setLatch r).stack = s.stack := rfl
@[simp] theorem State.setLatch_dt (r : Option FaultRecord) : (s.setLatch r).dt = s.dt := rfl
@[simp] theorem State.setLatch_st (r : Option FaultRecord) : (s.setLatch r).st = s.st := rfl
@[simp] theorem State.setLatch_faultLatch (r : Option FaultRecord) : (s.setLatch r).faultLatch = r := rfl
@[simp] theorem State.setLatch_mem (r : Option FaultRecord) : (s.setLatch r).mem = s.mem := rfl
@[simp] theorem State.setLatch_display (r : Option FaultRecord) : (s.setLatch r).display = s.display := rfl
@[simp] theorem State.setLatch_keyLatch (r : Option FaultRecord) : (s.setLatch r).keyLatch = s.keyLatch := rfl
@[simp] theorem State.setLatch_audio (r : Option FaultRecord) : (s.setLatch r).audio = s.audio := rfl
@[simp] theorem State.setLatch_cfg (r : Option FaultRecord) : (s.setLatch r).cfg = s.cfg := rfl
@[simp] theorem State.setLatch_draws (r : Option FaultRecord) : (s.setLatch r).draws = s.draws := rfl

@[simp] theorem State.setLatch_getV (r : Option FaultRecord) (q : RegIdx) : (s.setLatch r).getV q = s.getV q := rfl
@[simp] theorem State.setLatch_getStack (r : Option FaultRecord) (i : Fin 16) : (s.setLatch r).getStack i = s.getStack i := rfl
@[simp] theorem State.setLatch_readMem (r : Option FaultRecord) (c : Nat) : (s.setLatch r).readMem c = s.readMem c := rfl
@[simp] theorem State.setLatch_getPixel (r : Option FaultRecord) (i j : Nat) : (s.setLatch r).getPixel i j = s.getPixel i j := rfl

/-! ### `State.setMem` -/

@[simp] theorem State.setMem_v (m : Memory) : (s.setMem m).v = s.v := rfl
@[simp] theorem State.setMem_iReg (m : Memory) : (s.setMem m).iReg = s.iReg := rfl
@[simp] theorem State.setMem_pc (m : Memory) : (s.setMem m).pc = s.pc := rfl
@[simp] theorem State.setMem_sp (m : Memory) : (s.setMem m).sp = s.sp := rfl
@[simp] theorem State.setMem_stack (m : Memory) : (s.setMem m).stack = s.stack := rfl
@[simp] theorem State.setMem_dt (m : Memory) : (s.setMem m).dt = s.dt := rfl
@[simp] theorem State.setMem_st (m : Memory) : (s.setMem m).st = s.st := rfl
@[simp] theorem State.setMem_faultLatch (m : Memory) : (s.setMem m).faultLatch = s.faultLatch := rfl
@[simp] theorem State.setMem_mem (m : Memory) : (s.setMem m).mem = m := rfl
@[simp] theorem State.setMem_display (m : Memory) : (s.setMem m).display = s.display := rfl
@[simp] theorem State.setMem_keyLatch (m : Memory) : (s.setMem m).keyLatch = s.keyLatch := rfl
@[simp] theorem State.setMem_audio (m : Memory) : (s.setMem m).audio = s.audio := rfl
@[simp] theorem State.setMem_cfg (m : Memory) : (s.setMem m).cfg = s.cfg := rfl
@[simp] theorem State.setMem_draws (m : Memory) : (s.setMem m).draws = s.draws := rfl

@[simp] theorem State.setMem_getV (m : Memory) (q : RegIdx) : (s.setMem m).getV q = s.getV q := rfl
@[simp] theorem State.setMem_getStack (m : Memory) (i : Fin 16) : (s.setMem m).getStack i = s.getStack i := rfl
@[simp] theorem State.setMem_getPixel (m : Memory) (i j : Nat) : (s.setMem m).getPixel i j = s.getPixel i j := rfl

/-! ### `State.setDisplay` -/

@[simp] theorem State.setDisplay_v (d : Bitmap) : (s.setDisplay d).v = s.v := rfl
@[simp] theorem State.setDisplay_iReg (d : Bitmap) : (s.setDisplay d).iReg = s.iReg := rfl
@[simp] theorem State.setDisplay_pc (d : Bitmap) : (s.setDisplay d).pc = s.pc := rfl
@[simp] theorem State.setDisplay_sp (d : Bitmap) : (s.setDisplay d).sp = s.sp := rfl
@[simp] theorem State.setDisplay_stack (d : Bitmap) : (s.setDisplay d).stack = s.stack := rfl
@[simp] theorem State.setDisplay_dt (d : Bitmap) : (s.setDisplay d).dt = s.dt := rfl
@[simp] theorem State.setDisplay_st (d : Bitmap) : (s.setDisplay d).st = s.st := rfl
@[simp] theorem State.setDisplay_faultLatch (d : Bitmap) : (s.setDisplay d).faultLatch = s.faultLatch := rfl
@[simp] theorem State.setDisplay_mem (d : Bitmap) : (s.setDisplay d).mem = s.mem := rfl
@[simp] theorem State.setDisplay_display (d : Bitmap) : (s.setDisplay d).display = d := rfl
@[simp] theorem State.setDisplay_keyLatch (d : Bitmap) : (s.setDisplay d).keyLatch = s.keyLatch := rfl
@[simp] theorem State.setDisplay_audio (d : Bitmap) : (s.setDisplay d).audio = s.audio := rfl
@[simp] theorem State.setDisplay_cfg (d : Bitmap) : (s.setDisplay d).cfg = s.cfg := rfl
@[simp] theorem State.setDisplay_draws (d : Bitmap) : (s.setDisplay d).draws = s.draws := rfl

@[simp] theorem State.setDisplay_getV (d : Bitmap) (q : RegIdx) : (s.setDisplay d).getV q = s.getV q := rfl
@[simp] theorem State.setDisplay_getStack (d : Bitmap) (i : Fin 16) : (s.setDisplay d).getStack i = s.getStack i := rfl
@[simp] theorem State.setDisplay_readMem (d : Bitmap) (c : Nat) : (s.setDisplay d).readMem c = s.readMem c := rfl

/-! ### `State.setKeyLatch` -/

@[simp] theorem State.setKeyLatch_v (b : Byte) : (s.setKeyLatch b).v = s.v := rfl
@[simp] theorem State.setKeyLatch_iReg (b : Byte) : (s.setKeyLatch b).iReg = s.iReg := rfl
@[simp] theorem State.setKeyLatch_pc (b : Byte) : (s.setKeyLatch b).pc = s.pc := rfl
@[simp] theorem State.setKeyLatch_sp (b : Byte) : (s.setKeyLatch b).sp = s.sp := rfl
@[simp] theorem State.setKeyLatch_stack (b : Byte) : (s.setKeyLatch b).stack = s.stack := rfl
@[simp] theorem State.setKeyLatch_dt (b : Byte) : (s.setKeyLatch b).dt = s.dt := rfl
@[simp] theorem State.setKeyLatch_st (b : Byte) : (s.setKeyLatch b).st = s.st := rfl
@[simp] theorem State.setKeyLatch_faultLatch (b : Byte) : (s.setKeyLatch b).faultLatch = s.faultLatch := rfl
@[simp] theorem State.setKeyLatch_mem (b : Byte) : (s.setKeyLatch b).mem = s.mem := rfl
@[simp] theorem State.setKeyLatch_display (b : Byte) : (s.setKeyLatch b).display = s.display := rfl
@[simp] theorem State.setKeyLatch_keyLatch (b : Byte) : (s.setKeyLatch b).keyLatch = b := rfl
@[simp] theorem State.setKeyLatch_audio (b : Byte) : (s.setKeyLatch b).audio = s.audio := rfl
@[simp] theorem State.setKeyLatch_cfg (b : Byte) : (s.setKeyLatch b).cfg = s.cfg := rfl
@[simp] theorem State.setKeyLatch_draws (b : Byte) : (s.setKeyLatch b).draws = s.draws := rfl

@[simp] theorem State.setKeyLatch_getV (b : Byte) (q : RegIdx) : (s.setKeyLatch b).getV q = s.getV q := rfl
@[simp] theorem State.setKeyLatch_getStack (b : Byte) (i : Fin 16) : (s.setKeyLatch b).getStack i = s.getStack i := rfl
@[simp] theorem State.setKeyLatch_readMem (b : Byte) (c : Nat) : (s.setKeyLatch b).readMem c = s.readMem c := rfl
@[simp] theorem State.setKeyLatch_getPixel (b : Byte) (i j : Nat) : (s.setKeyLatch b).getPixel i j = s.getPixel i j := rfl

/-! ### `State.setAudio` -/

@[simp] theorem State.setAudio_v (on : Bool) : (s.setAudio on).v = s.v := rfl
@[simp] theorem State.setAudio_iReg (on : Bool) : (s.setAudio on).iReg = s.iReg := rfl
@[simp] theorem State.setAudio_pc (on : Bool) : (s.setAudio on).pc = s.pc := rfl
@[simp] theorem State.setAudio_sp (on : Bool) : (s.setAudio on).sp = s.sp := rfl
@[simp] theorem State.setAudio_stack (on : Bool) : (s.setAudio on).stack = s.stack := rfl
@[simp] theorem State.setAudio_dt (on : Bool) : (s.setAudio on).dt = s.dt := rfl
@[simp] theorem State.setAudio_st (on : Bool) : (s.setAudio on).st = s.st := rfl
@[simp] theorem State.setAudio_faultLatch (on : Bool) : (s.setAudio on).faultLatch = s.faultLatch := rfl
@[simp] theorem State.setAudio_mem (on : Bool) : (s.setAudio on).mem = s.mem := rfl
@[simp] theorem State.setAudio_display (on : Bool) : (s.setAudio on).display = s.display := rfl
@[simp] theorem State.setAudio_keyLatch (on : Bool) : (s.setAudio on).keyLatch = s.keyLatch := rfl
@[simp] theorem State.setAudio_audio (on : Bool) : (s.setAudio on).audio = on := rfl
@[simp] theorem State.setAudio_cfg (on : Bool) : (s.setAudio on).cfg = s.cfg := rfl
@[simp] theorem State.setAudio_draws (on : Bool) : (s.setAudio on).draws = s.draws := rfl

@[simp] theorem State.setAudio_getV (on : Bool) (q : RegIdx) : (s.setAudio on).getV q = s.getV q := rfl
@[simp] theorem State.setAudio_getStack (on : Bool) (i : Fin 16) : (s.setAudio on).getStack i = s.getStack i := rfl
@[simp] theorem State.setAudio_readMem (on : Bool) (c : Nat) : (s.setAudio on).readMem c = s.readMem c := rfl
@[simp] theorem State.setAudio_getPixel (on : Bool) (i j : Nat) : (s.setAudio on).getPixel i j = s.getPixel i j := rfl

/-! ### `State.draw` -/

@[simp] theorem State.draw_v : (s.draw).v = s.v := rfl
@[simp] theorem State.draw_iReg : (s.draw).iReg = s.iReg := rfl
@[simp] theorem State.draw_pc : (s.draw).pc = s.pc := rfl
@[simp] theorem State.draw_sp : (s.draw).sp = s.sp := rfl
@[simp] theorem State.draw_stack : (s.draw).stack = s.stack := rfl
@[simp] theorem State.draw_dt : (s.draw).dt = s.dt := rfl
@[simp] theorem State.draw_st : (s.draw).st = s.st := rfl
@[simp] theorem State.draw_faultLatch : (s.draw).faultLatch = s.faultLatch := rfl
@[simp] theorem State.draw_mem : (s.draw).mem = s.mem := rfl
@[simp] theorem State.draw_display : (s.draw).display = s.display := rfl
@[simp] theorem State.draw_keyLatch : (s.draw).keyLatch = s.keyLatch := rfl
@[simp] theorem State.draw_audio : (s.draw).audio = s.audio := rfl
@[simp] theorem State.draw_cfg : (s.draw).cfg = s.cfg := rfl
@[simp] theorem State.draw_draws : (s.draw).draws = s.draws + 1 := rfl

@[simp] theorem State.draw_getV (q : RegIdx) : (s.draw).getV q = s.getV q := rfl
@[simp] theorem State.draw_getStack (i : Fin 16) : (s.draw).getStack i = s.getStack i := rfl
@[simp] theorem State.draw_readMem (c : Nat) : (s.draw).readMem c = s.readMem c := rfl
@[simp] theorem State.draw_getPixel (i j : Nat) : (s.draw).getPixel i j = s.getPixel i j := rfl

/-! ### `State.writeMem` -/

@[simp] theorem State.writeMem_v (a : Nat) (b : Byte) : (s.writeMem a b).v = s.v := rfl
@[simp] theorem State.writeMem_iReg (a : Nat) (b : Byte) : (s.writeMem a b).iReg = s.iReg := rfl
@[simp] theorem State.writeMem_pc (a : Nat) (b : Byte) : (s.writeMem a b).pc = s.pc := rfl
@[simp] theorem State.writeMem_sp (a : Nat) (b : Byte) : (s.writeMem a b).sp = s.sp := rfl
@[simp] theorem State.writeMem_stack (a : Nat) (b : Byte) : (s.writeMem a b).stack = s.stack := rfl
@[simp] theorem State.writeMem_dt (a : Nat) (b : Byte) : (s.writeMem a b).dt = s.dt := rfl
@[simp] theorem State.writeMem_st (a : Nat) (b : Byte) : (s.writeMem a b).st = s.st := rfl
@[simp] theorem State.writeMem_faultLatch (a : Nat) (b : Byte) : (s.writeMem a b).faultLatch = s.faultLatch := rfl
@[simp] theorem State.writeMem_mem (a : Nat) (b : Byte) : (s.writeMem a b).mem = s.mem.write s.cfg.fontImage a b := rfl
@[simp] theorem State.writeMem_display (a : Nat) (b : Byte) : (s.writeMem a b).display = s.display := rfl
@[simp] theorem State.writeMem_keyLatch (a : Nat) (b : Byte) : (s.writeMem a b).keyLatch = s.keyLatch := rfl
@[simp] theorem State.writeMem_audio (a : Nat) (b : Byte) : (s.writeMem a b).audio = s.audio := rfl
@[simp] theorem State.writeMem_cfg (a : Nat) (b : Byte) : (s.writeMem a b).cfg = s.cfg := rfl
@[simp] theorem State.writeMem_draws (a : Nat) (b : Byte) : (s.writeMem a b).draws = s.draws := rfl

@[simp] theorem State.writeMem_getV (a : Nat) (b : Byte) (q : RegIdx) : (s.writeMem a b).getV q = s.getV q := rfl
@[simp] theorem State.writeMem_getStack (a : Nat) (b : Byte) (i : Fin 16) : (s.writeMem a b).getStack i = s.getStack i := rfl
@[simp] theorem State.writeMem_getPixel (a : Nat) (b : Byte) (i j : Nat) : (s.writeMem a b).getPixel i j = s.getPixel i j := rfl

/-! ### `State.drawPixel` -/

@[simp] theorem State.drawPixel_v (x y : Nat) (on : Bool) : (s.drawPixel x y on).v = s.v := rfl
@[simp] theorem State.drawPixel_iReg (x y : Nat) (on : Bool) : (s.drawPixel x y on).iReg = s.iReg := rfl
@[simp] theorem State.drawPixel_pc (x y : Nat) (on : Bool) : (s.drawPixel x y on).pc = s.pc := rfl
@[simp] theorem State.drawPixel_sp (x y : Nat) (on : Bool) : (s.drawPixel x y on).sp = s.sp := rfl
@[simp] theorem State.drawPixel_stack (x y : Nat) (on : Bool) : (s.drawPixel x y on).stack = s.stack := rfl
@[simp] theorem State.drawPixel_dt (x y : Nat) (on : Bool) : (s.drawPixel x y on).dt = s.dt := rfl
@[simp] theorem State.drawPixel_st (x y : Nat) (on : Bool) : (s.drawPixel x y on).st = s.st := rfl
@[simp] theorem State.drawPixel_faultLatch (x y : Nat) (on : Bool) : (s.drawPixel x y on).faultLatch = s.faultLatch := rfl
@[simp] theorem State.drawPixel_mem (x y : Nat) (on : Bool) : (s.drawPixel x y on).mem = s.mem := rfl
@[simp] theorem State.drawPixel_display (x y : Nat) (on : Bool) : (s.drawPixel x y on).display = s.display.draw x y on := rfl
@[simp] theorem State.drawPixel_keyLatch (x y : Nat) (on : Bool) : (s.drawPixel x y on).keyLatch = s.keyLatch := rfl
@[simp] theorem State.drawPixel_audio (x y : Nat) (on : Bool) : (s.drawPixel x y on).audio = s.audio := rfl
@[simp] theorem State.drawPixel_cfg (x y : Nat) (on : Bool) : (s.drawPixel x y on).cfg = s.cfg := rfl
@[simp] theorem State.drawPixel_draws (x y : Nat) (on : Bool) : (s.drawPixel x y on).draws = s.draws := rfl

@[simp] theorem State.drawPixel_getV (x y : Nat) (on : Bool) (q : RegIdx) : (s.drawPixel x y on).getV q = s.getV q := rfl
@[simp] theorem State.drawPixel_getStack (x y : Nat) (on : Bool) (i : Fin 16) : (s.drawPixel x y on).getStack i = s.getStack i := rfl
@[simp] theorem State.drawPixel_readMem (x y : Nat) (on : Bool) (c : Nat) : (s.drawPixel x y on).readMem c = s.readMem c := rfl

/-! ### `advance` -/

@[simp] theorem advance_v : (advance s).v = s.v := rfl
@[simp] theorem advance_iReg : (advance s).iReg = s.iReg := rfl
@[simp] theorem advance_pc : (advance s).pc = s.pc + 2#16 := rfl
@[simp] theorem advance_sp : (advance s).sp = s.sp := rfl
@[simp] theorem advance_stack : (advance s).stack = s.stack := rfl
@[simp] theorem advance_dt : (advance s).dt = s.dt := rfl
@[simp] theorem advance_st : (advance s).st = s.st := rfl
@[simp] theorem advance_faultLatch : (advance s).faultLatch = s.faultLatch := rfl
@[simp] theorem advance_mem : (advance s).mem = s.mem := rfl
@[simp] theorem advance_display : (advance s).display = s.display := rfl
@[simp] theorem advance_keyLatch : (advance s).keyLatch = s.keyLatch := rfl
@[simp] theorem advance_audio : (advance s).audio = s.audio := rfl
@[simp] theorem advance_cfg : (advance s).cfg = s.cfg := rfl
@[simp] theorem advance_draws : (advance s).draws = s.draws := rfl

@[simp] theorem advance_getV (q : RegIdx) : (advance s).getV q = s.getV q := rfl
@[simp] theorem advance_getStack (i : Fin 16) : (advance s).getStack i = s.getStack i := rfl
@[simp] theorem advance_readMem (c : Nat) : (advance s).readMem c = s.readMem c := rfl
@[simp] theorem advance_getPixel (i j : Nat) : (advance s).getPixel i j = s.getPixel i j := rfl

/-! ### `skipWhen` -/

@[simp] theorem skipWhen_v (c : Bool) : (skipWhen c s).v = s.v := rfl
@[simp] theorem skipWhen_iReg (c : Bool) : (skipWhen c s).iReg = s.iReg := rfl
@[simp] theorem skipWhen_pc (c : Bool) : (skipWhen c s).pc = s.pc + if c then 4#16 else 2#16 := rfl
@[simp] theorem skipWhen_sp (c : Bool) : (skipWhen c s).sp = s.sp := rfl
@[simp] theorem skipWhen_stack (c : Bool) : (skipWhen c s).stack = s.stack := rfl
@[simp] theorem skipWhen_dt (c : Bool) : (skipWhen c s).dt = s.dt := rfl
@[simp] theorem skipWhen_st (c : Bool) : (skipWhen c s).st = s.st := rfl
@[simp] theorem skipWhen_faultLatch (c : Bool) : (skipWhen c s).faultLatch = s.faultLatch := rfl
@[simp] theorem skipWhen_mem (c : Bool) : (skipWhen c s).mem = s.mem := rfl
@[simp] theorem skipWhen_display (c : Bool) : (skipWhen c s).display = s.display := rfl
@[simp] theorem skipWhen_keyLatch (c : Bool) : (skipWhen c s).keyLatch = s.keyLatch := rfl
@[simp] theorem skipWhen_audio (c : Bool) : (skipWhen c s).audio = s.audio := rfl
@[simp] theorem skipWhen_cfg (c : Bool) : (skipWhen c s).cfg = s.cfg := rfl
@[simp] theorem skipWhen_draws (c : Bool) : (skipWhen c s).draws = s.draws := rfl

@[simp] theorem skipWhen_getV (c : Bool) (q : RegIdx) : (skipWhen c s).getV q = s.getV q := rfl
@[simp] theorem skipWhen_getStack (c : Bool) (i : Fin 16) : (skipWhen c s).getStack i = s.getStack i := rfl
@[simp] theorem skipWhen_readMem (c : Bool) (a : Nat) : (skipWhen c s).readMem a = s.readMem a := rfl
@[simp] theorem skipWhen_getPixel (c : Bool) (i j : Nat) : (skipWhen c s).getPixel i j = s.getPixel i j := rfl

/-! ### `halt` -/

@[simp] theorem halt_v (k : FaultKind) : (halt k s).v = s.v := rfl
@[simp] theorem halt_iReg (k : FaultKind) : (halt k s).iReg = s.iReg := rfl
@[simp] theorem halt_pc (k : FaultKind) : (halt k s).pc = s.pc := rfl
@[simp] theorem halt_sp (k : FaultKind) : (halt k s).sp = s.sp := rfl
@[simp] theorem halt_stack (k : FaultKind) : (halt k s).stack = s.stack := rfl
@[simp] theorem halt_dt (k : FaultKind) : (halt k s).dt = s.dt := rfl
@[simp] theorem halt_st (k : FaultKind) : (halt k s).st = s.st := rfl
@[simp] theorem halt_faultLatch (k : FaultKind) : (halt k s).faultLatch = some ⟨k, s.pc⟩ := rfl
@[simp] theorem halt_mem (k : FaultKind) : (halt k s).mem = s.mem := rfl
@[simp] theorem halt_display (k : FaultKind) : (halt k s).display = s.display := rfl
@[simp] theorem halt_keyLatch (k : FaultKind) : (halt k s).keyLatch = s.keyLatch := rfl
@[simp] theorem halt_audio (k : FaultKind) : (halt k s).audio = s.audio := rfl
@[simp] theorem halt_cfg (k : FaultKind) : (halt k s).cfg = s.cfg := rfl
@[simp] theorem halt_draws (k : FaultKind) : (halt k s).draws = s.draws := rfl

@[simp] theorem halt_getV (k : FaultKind) (q : RegIdx) : (halt k s).getV q = s.getV q := rfl
@[simp] theorem halt_getStack (k : FaultKind) (i : Fin 16) : (halt k s).getStack i = s.getStack i := rfl
@[simp] theorem halt_readMem (k : FaultKind) (c : Nat) : (halt k s).readMem c = s.readMem c := rfl
@[simp] theorem halt_getPixel (k : FaultKind) (i j : Nat) : (halt k s).getPixel i j = s.getPixel i j := rfl

/-! ### The size of the bitmap -/

@[simp] theorem State.getWidth_eq : s.getWidth = s.cfg.displayWidth := rfl
@[simp] theorem State.getHeight_eq : s.getHeight = s.cfg.displayHeight := rfl

/-! ### Reading what was written -/

theorem State.getV_setV (r q : RegIdx) (b : Byte) : (s.setV r b).getV q = if q = r then b else s.getV q := by
  by_cases h : q = r
  · subst h; simp [State.getV, State.setV]
  · have hn : r.toNat ≠ q.toNat := fun e => h (BitVec.eq_of_toNat_eq e.symm)
    simp [State.getV, State.setV, h, Vector.getElem_set_ne _ _ hn]

@[simp] theorem State.getV_setV_self (r : RegIdx) (b : Byte) : (s.setV r b).getV r = b := by
  simp [State.getV_setV]

theorem State.getV_setV_ne {r q : RegIdx} (h : q ≠ r) (b : Byte) : (s.setV r b).getV q = s.getV q := by
  simp [State.getV_setV, h]

@[simp] theorem State.setV_getV (r : RegIdx) : s.setV r (s.getV r) = s := by
  simp [State.setV, State.getV]

theorem State.getStack_setStack (j i : Fin 16) (a : Word) :
    (s.setStack j a).getStack i = if i = j then a else s.getStack i := by
  by_cases h : i = j
  · subst h; simp [State.getStack, State.setStack]
  · have hn : j.val ≠ i.val := fun e => h (Fin.ext e.symm)
    simp [State.getStack, State.setStack, h, Vector.getElem_set_ne _ _ hn]

@[simp] theorem State.getStack_setStack_self (j : Fin 16) (a : Word) : (s.setStack j a).getStack j = a := by
  simp [State.getStack_setStack]

end Sys2Proof.Machine
end

