-- ==== Sys2Proof/Laws/Bitmap.lean ====
section
/-!
SUPPORT. The bitmap: a query after a draw, and that every operation keeps the canonical form.
-/

namespace Sys2Proof.Machine

variable {d : Bitmap} {p q : Nat × Nat}

theorem Bitmap.mem_insert : q ∈ Bitmap.insert p d ↔ q = p ∨ q ∈ d := by
  induction d with
  | nil => simp [Bitmap.insert]
  | cons r rest ih =>
    simp only [Bitmap.insert]
    split
    · simp
    · simp only [List.mem_cons, ih]; tauto

theorem Bitmap.get_iff (d : Bitmap) (x y : Nat) : d.get x y = true ↔ (x, y) ∈ d := by
  simp [Bitmap.get]

/-- A query after a draw: the level drawn at its pixel, the old one at every other (R186). Holds of every bitmap, in
canonical form or not. -/
theorem Bitmap.get_draw (d : Bitmap) (x y a b : Nat) (on : Bool) :
    (d.draw x y on).get a b = if a = x ∧ b = y then on else d.get a b := by
  rw [Bool.eq_iff_iff, Bitmap.get_iff]
  unfold Bitmap.draw
  cases on <;> by_cases h : a = x ∧ b = y <;>
    simp [Bitmap.mem_insert, Bitmap.erase, h, Bitmap.get]

theorem State.getPixel_drawPixel (s : State) (x y a b : Nat) (on : Bool) :
    (s.drawPixel x y on).getPixel a b = if a = x ∧ b = y then on else s.getPixel a b :=
  Bitmap.get_draw _ _ _ _ _ _

@[simp] theorem State.getPixel_setDisplay_blank (s : State) (a b : Nat) :
    (s.setDisplay Bitmap.blank).getPixel a b = false := rfl

theorem pixelBefore_trans {p q r : Nat × Nat} (h : pixelBefore p q) (k : pixelBefore q r) : pixelBefore p r := by
  unfold pixelBefore at *; omega

theorem pixelBefore_of_not {p q : Nat × Nat} (hne : q ≠ p) (h : ¬pixelBefore p q) : pixelBefore q p := by
  have : ¬(q.1 = p.1 ∧ q.2 = p.2) := fun e => hne (Prod.ext e.1 e.2)
  unfold pixelBefore at *; omega

variable {w h : Nat}

theorem Bitmap.wf_erase (p : Nat × Nat) (hd : d.wf w h) : (d.erase p).wf w h :=
  ⟨hd.1.filter _, fun c hc => hd.2 c (List.mem_of_mem_filter hc)⟩

theorem Bitmap.wf_insert (hp : p.1 < w ∧ p.2 < h) (hfree : p ∉ d) (hd : d.wf w h) : (Bitmap.insert p d).wf w h := by
  refine ⟨?_, fun c hc => ?_⟩
  · obtain ⟨hpw, -⟩ := hd
    induction d with
    | nil => simp [Bitmap.insert]
    | cons q rest ih =>
      have hq : q ≠ p := fun e => hfree (by simp [e])
      simp only [List.pairwise_cons] at hpw
      simp only [Bitmap.insert]
      split
      · rename_i hlt
        rw [List.pairwise_cons, List.pairwise_cons]
        refine ⟨fun c hc => ?_, hpw⟩
        rcases List.mem_cons.mp hc with rfl | hc
        · exact hlt
        · exact pixelBefore_trans hlt (hpw.1 c hc)
      · rename_i hge
        rw [List.pairwise_cons]
        refine ⟨fun c hc => ?_, ih (fun hm => hfree (by simp [hm])) hpw.2⟩
        rcases Bitmap.mem_insert.mp hc with rfl | hc
        · exact pixelBefore_of_not hq hge
        · exact hpw.1 c hc
  · rcases Bitmap.mem_insert.mp hc with rfl | hc
    · exact hp
    · exact hd.2 c hc

/-- Every draw inside the bitmap keeps the canonical form. -/
theorem Bitmap.wf_draw {x y : Nat} (hp : x < w ∧ y < h) (on : Bool) (hd : d.wf w h) : (d.draw x y on).wf w h := by
  unfold Bitmap.draw
  split
  · exact Bitmap.wf_insert hp (by simp [Bitmap.erase]) (Bitmap.wf_erase _ hd)
  · exact Bitmap.wf_erase _ hd

theorem Bitmap.wf_blank : Bitmap.wf w h Bitmap.blank := by simp [Bitmap.wf, Bitmap.blank]

end Sys2Proof.Machine
end

