-- ==== Sys2Proof/Laws/Memory.lean ====
section
/-!
SUPPORT. Memory: a read after a write, and that every operation keeps the canonical form.
-/

namespace Sys2Proof.Machine

variable {font : List Byte} {m : Memory} {a : Nat} {b : Byte}

theorem Memory.listed_erase (a k : Nat) (m : Memory) :
    (m.erase a).listed k = if k = a then none else m.listed k := by
  induction m with
  | nil => simp [Memory.erase, Memory.listed]
  | cons c rest ih =>
    obtain ⟨i, v⟩ := c
    simp only [Memory.erase] at ih ⊢
    by_cases hi : i = a
    · subst hi
      by_cases hk : k = i
      · simp [hk] at ih ⊢; exact ih
      · simp [hk, Memory.listed, Ne.symm hk] at ih ⊢; exact ih
    · by_cases hk : i = k
      · subst hk; simp [Memory.listed, hi]
      · simp [Memory.listed, hi, hk]
        simpa using ih

theorem Memory.listed_insert (a k : Nat) (b : Byte) (m : Memory) (h : m.listed a = none) :
    (Memory.insert a b m).listed k = if k = a then some b else m.listed k := by
  induction m with
  | nil => simp [Memory.insert, Memory.listed, eq_comm]
  | cons c rest ih =>
    obtain ⟨i, v⟩ := c
    have hi : i ≠ a := by rintro rfl; simp [Memory.listed] at h
    have hr : Memory.listed a rest = none := by simpa [Memory.listed, hi] using h
    simp only [Memory.insert]
    split
    · by_cases hk : k = a
      · simp [Memory.listed, hk]
      · simp [Memory.listed, hk, Ne.symm hk]
    · by_cases hk : i = k
      · subst hk; simp [Memory.listed, hi]
      · simp [Memory.listed, hk, ih hr]

/-- A read after a write: the byte written at its address, the old byte at every other (R67, R70). Holds of every
memory, in canonical form or not. -/
theorem Memory.read_write (font : List Byte) (m : Memory) (a k : Nat) (b : Byte) :
    (m.write font a b).read font k = if k = a then b else m.read font k := by
  have he : (m.erase a).listed a = none := by simp [Memory.listed_erase]
  unfold Memory.write Memory.read
  split
  · rename_i hb
    rw [Memory.listed_erase]
    by_cases hk : k = a <;> simp [hk, hb]
  · rw [Memory.listed_insert _ _ _ _ he, Memory.listed_erase]
    by_cases hk : k = a <;> simp [hk]

theorem State.readMem_writeMem (s : State) (a k : Nat) (b : Byte) :
    (s.writeMem a b).readMem k = if k = a then b else s.readMem k :=
  Memory.read_write _ _ _ _ _

@[simp] theorem State.readMem_writeMem_self (s : State) (a : Nat) (b : Byte) : (s.writeMem a b).readMem a = b := by
  simp [State.readMem_writeMem]

theorem Memory.mem_insert {c : Host.Cell} : c ∈ Memory.insert a b m ↔ c = (a, b) ∨ c ∈ m := by
  induction m with
  | nil => simp [Memory.insert]
  | cons d rest ih =>
    simp only [Memory.insert]
    split
    · simp
    · simp only [List.mem_cons, ih]; tauto

/-- Erasing keeps the canonical form. -/
theorem Memory.wf_erase (a : Nat) (h : m.wf font) : (m.erase a).wf font :=
  ⟨h.1.filter _, fun c hc => h.2 c (List.mem_of_mem_filter hc)⟩

/-- Inserting at a free address keeps the canonical form. -/
theorem Memory.wf_insert (ha : a < memSize) (hb : b ≠ unlisted font a) (hfree : ∀ c ∈ m, c.1 ≠ a) (h : m.wf font) :
    (Memory.insert a b m).wf font := by
  refine ⟨?_, fun c hc => ?_⟩
  · obtain ⟨hp, -⟩ := h
    induction m with
    | nil => simp [Memory.insert]
    | cons d rest ih =>
      have hd : d.1 ≠ a := hfree d (by simp)
      simp only [List.pairwise_cons] at hp
      simp only [Memory.insert]
      split
      · rename_i hlt
        simp only [List.pairwise_cons, List.mem_cons]
        exact ⟨fun c hc => hc.elim (fun e => e ▸ hlt) (fun hc => lt_trans hlt (hp.1 c hc)), hp⟩
      · rename_i hge
        simp only [List.pairwise_cons]
        refine ⟨fun c hc => ?_, ih (fun c hc => hfree c (by simp [hc])) hp.2⟩
        rcases Memory.mem_insert.mp hc with rfl | hc
        · show d.1 < a; omega
        · exact hp.1 c hc
  · rcases Memory.mem_insert.mp hc with rfl | hc
    · exact ⟨ha, hb⟩
    · exact h.2 c hc

/-- Every write inside memory keeps the canonical form. -/
theorem Memory.wf_write (ha : a < memSize) (b : Byte) (h : m.wf font) : (m.write font a b).wf font := by
  unfold Memory.write
  split
  · exact Memory.wf_erase a h
  · rename_i hb
    refine Memory.wf_insert ha hb (fun c hc => ?_) (Memory.wf_erase a h)
    simpa using (List.mem_filter.mp hc).2

/-- Nothing listed is in canonical form: the memory of `State.powerOn`. -/
theorem Memory.wf_nil : Memory.wf font [] := by simp [Memory.wf]

/-! ### Runs of writes (`State.writeBytes`) -/

/-- `writeBytes` writes memory alone. -/
theorem State.writeBytes_eq (bytes : List Byte) (a : Nat) (s : State) :
    s.writeBytes a bytes = s.setMem (s.writeBytes a bytes).mem := by
  induction bytes generalizing a s with
  | nil => rfl
  | cons b rest ih => rw [State.writeBytes, ih]; rfl

theorem State.readMem_writeBytes (bytes : List Byte) (a k : Nat) (s : State) :
    (s.writeBytes a bytes).readMem k =
      if a ≤ k ∧ k < a + bytes.length then bytes.getD (k - a) 0x00#8 else s.readMem k := by
  induction bytes generalizing a s with
  | nil => simp [State.writeBytes]
  | cons b rest ih =>
    rw [State.writeBytes, ih, State.readMem_writeMem]
    by_cases hk : k = a
    · subst hk; simp
    · by_cases hr : a + 1 ≤ k ∧ k < a + 1 + rest.length
      · have hs : k - a = (k - (a + 1)) + 1 := by omega
        have hc : a ≤ k ∧ k < a + (b :: rest).length := by simp; omega
        rw [if_pos hr, if_pos hc, hs, List.getD_cons_succ]
      · have hc : ¬(a ≤ k ∧ k < a + (b :: rest).length) := by simp; omega
        rw [if_neg hr, if_neg hc, if_neg hk]

/-- Writing over power-on memory what it reads already writes nothing: the font at power-on (R200, R201). -/
theorem State.writeBytes_unlisted (bytes : List Byte) (a : Nat) (s : State) (hm : s.mem = [])
    (h : ∀ j < bytes.length, bytes.getD j 0x00#8 = unlisted s.cfg.fontImage (a + j)) : s.writeBytes a bytes = s := by
  induction bytes generalizing a with
  | nil => rfl
  | cons b rest ih =>
    have h0 : b = unlisted s.cfg.fontImage a := by simpa using h 0 (by simp)
    have hw : s.writeMem a b = s := by
      unfold State.writeMem Memory.write
      rw [if_pos h0, hm]
      cases s
      simp only at hm
      subst hm
      rfl
    rw [State.writeBytes, hw]
    refine ih (a + 1) (fun j hj => ?_)
    have hs := h (j + 1) (by simp; omega)
    rw [List.getD_cons_succ] at hs
    rw [hs]
    congr 1
    omega

theorem State.writeBytes_wf (bytes : List Byte) (a : Nat) (s : State) (ha : a + bytes.length ≤ memSize)
    (h : s.mem.wf s.cfg.fontImage) : (s.writeBytes a bytes).mem.wf s.cfg.fontImage := by
  induction bytes generalizing a s with
  | nil => exact h
  | cons b rest ih =>
    simp only [List.length_cons] at ha
    exact ih (a + 1) (s.writeMem a b) (by omega) (Memory.wf_write (by omega) b h)

end Sys2Proof.Machine
end

