-- ==== Sys2Proof/Laws/Ops.lean ====
section
/-!
SUPPORT. What the shared operations can do, once each: taking a fault, one write, a surviving subset of writes, and a
run of byte accesses.
-/

namespace Sys2Proof.Machine

/-! ### Taking a fault -/

/-- `raise` always ends in the fault of its kind, in the halted state of its kind (R170, R176). -/
theorem raise_eq (k : FaultKind) (s : State) : ∃ f, raise k s = .fault f ∧ f.kind = k ∧ f.halted = halt k s := by
  cases k <;> exact ⟨_, rfl, rfl, rfl⟩

theorem raise_ne_next (k : FaultKind) (s t : State) : raise k s ≠ .next t := by
  cases k <;> simp [raise]

/-- What a fault that `raise` ends in carries. -/
theorem raise_fault {k : FaultKind} {s : State} {f : Fault} (h : raise k s = .fault f) :
    f.kind = k ∧ f.halted = halt k s := by
  obtain ⟨g, hg, hk⟩ := raise_eq k s
  rw [hg] at h
  cases h
  exact hk

/-! ### The fields no write touches -/

@[simp] theorem Effect.apply_iReg (e : Effect) (s : State) : (e.apply s).iReg = s.iReg := by cases e <;> rfl
@[simp] theorem Effect.apply_pc (e : Effect) (s : State) : (e.apply s).pc = s.pc := by cases e <;> rfl
@[simp] theorem Effect.apply_sp (e : Effect) (s : State) : (e.apply s).sp = s.sp := by cases e <;> rfl
@[simp] theorem Effect.apply_stack (e : Effect) (s : State) : (e.apply s).stack = s.stack := by cases e <;> rfl
@[simp] theorem Effect.apply_dt (e : Effect) (s : State) : (e.apply s).dt = s.dt := by cases e <;> rfl
@[simp] theorem Effect.apply_st (e : Effect) (s : State) : (e.apply s).st = s.st := by cases e <;> rfl
@[simp] theorem Effect.apply_faultLatch (e : Effect) (s : State) : (e.apply s).faultLatch = s.faultLatch := by
  cases e <;> rfl
@[simp] theorem Effect.apply_keyLatch (e : Effect) (s : State) : (e.apply s).keyLatch = s.keyLatch := by
  cases e <;> rfl
@[simp] theorem Effect.apply_audio (e : Effect) (s : State) : (e.apply s).audio = s.audio := by cases e <;> rfl
@[simp] theorem Effect.apply_cfg (e : Effect) (s : State) : (e.apply s).cfg = s.cfg := by cases e <;> rfl
@[simp] theorem Effect.apply_draws (e : Effect) (s : State) : (e.apply s).draws = s.draws := by cases e <;> rfl

@[simp] theorem Progress.emit_now (p : Progress) (e : Effect) : (p.emit e).now = e.apply p.now := rfl
@[simp] theorem Progress.emit_done (p : Progress) (e : Effect) : (p.emit e).done = p.done ++ [e] := rfl
@[simp] theorem Progress.start_now (s : State) : (Progress.start s).now = s := rfl
@[simp] theorem Progress.start_done (s : State) : (Progress.start s).done = [] := rfl

/-! ### A surviving subset of writes -/

/-- A conditional write is the write or nothing. -/
theorem Effect.applyIf_eq (keep : Bool) (e : Effect) (s : State) :
    e.applyIf keep s = if keep then e.apply s else s := by
  cases keep <;> cases e <;> try rfl
  exact State.setV_getV _ _

/-- What every write of a list keeps, any subset of them keeps: the one induction over `keepSome`. -/
theorem keepSome_induct {P : State → Prop} {es : List Effect} (hstep : ∀ e ∈ es, ∀ t, P t → P (e.apply t)) (k j : Nat)
    {s : State} (hs : P s) : P (keepSome k j es s) := by
  induction es generalizing j s with
  | nil => exact hs
  | cons e rest ih =>
    refine ih (fun f hf => hstep f (by simp [hf])) (j + 1) ?_
    rw [Effect.applyIf_eq]
    split
    · exact hstep e (by simp) s hs
    · exact hs

/-- What every write keeps and a draw keeps, the halted state of a fault part-way keeps. -/
theorem partialEffects_induct {P : State → Prop} {es : List Effect} (hstep : ∀ e ∈ es, ∀ t, P t → P (e.apply t))
    (hdraw : ∀ t, P t → P t.draw) {s : State} (hs : P s) : P (partialEffects es s) :=
  hdraw _ (keepSome_induct hstep _ _ hs)

/-! ### A run of byte accesses -/

/-- The one induction over the rows or bytes of a run. -/
theorem foldl_range_induct {α : Type} {P : Nat → α → Prop} (body : Nat → α → α) (k : Nat)
    (hstep : ∀ j < k, ∀ p, P j p → P (j + 1) (body j p)) {p : α} (h0 : P 0 p) :
    P k ((List.range k).foldl (fun q j => body j q) p) := by
  induction k with
  | zero => exact h0
  | succ k ih =>
    rw [List.range_succ, List.foldl_append]
    exact hstep k (by omega) _ (ih (fun j hj => hstep j (by omega)))

theorem inRange_of_le {base count : Nat} (h : count = 0 ∨ base + count ≤ memSize) : inRange base count = count := by
  unfold inRange; omega

theorem inRange_le (base count : Nat) : inRange base count ≤ count := by unfold inRange; omega

theorem inRange_lt {base count j : Nat} (h : j < inRange base count) : base + j < memSize := by
  unfold inRange at h; omega

theorem inRange_of_lt {base count : Nat} (h0 : count ≠ 0) (h : memSize < base + count) :
    inRange base count = memSize - base ∧ inRange base count ≠ count := by
  unfold inRange; omega

variable {count : Nat} {access : Access} {body : Nat → Progress → Progress} {p : Progress} {s t : State}

/-- A run that stays in memory completes (R66). -/
theorem accessRun_completes (h : count = 0 ∨ s.iReg.toNat + count ≤ memSize) :
    accessRun count access body p s =
      .next (advance ((List.range count).foldl (fun q j => body j q) p).now) := by
  have hk : inRange (effectiveAddress s 0) count = count := inRange_of_le (by simpa [effectiveAddress] using h)
  simp [accessRun, hk]

/-- A run that leaves memory faults at the first address above 0xFFF, with any subset of the writes before it (R63,
R175, R176). -/
theorem accessRun_faults (h0 : count ≠ 0) (h : memSize < s.iReg.toNat + count) :
    accessRun count access body p s =
      raise (.memoryOutOfRange (max s.iReg.toNat memSize) access)
        (partialEffects
          ((List.range (memSize - s.iReg.toNat)).foldl (fun q j => body j q) p).done s) := by
  have hb : effectiveAddress s 0 = s.iReg.toNat := by simp [effectiveAddress]
  obtain ⟨hk, hne⟩ := inRange_of_lt (base := s.iReg.toNat) h0 h
  have ha : effectiveAddress s (memSize - s.iReg.toNat) = max s.iReg.toNat memSize := by
    unfold effectiveAddress; omega
  rw [hk] at hne
  simp only [accessRun, hb, hk, if_neg hne, ha]

/-- Everything a run can do: complete in memory, or fault. -/
theorem accessRun_next (h : accessRun count access body p s = .next t) :
    (count = 0 ∨ s.iReg.toNat + count ≤ memSize) ∧
      t = advance ((List.range count).foldl (fun q j => body j q) p).now := by
  by_cases hc : count = 0 ∨ s.iReg.toNat + count ≤ memSize
  · rw [accessRun_completes hc] at h
    cases h
    exact ⟨hc, rfl⟩
  · rw [accessRun_faults (by tauto) (by omega)] at h
    exact absurd h (raise_ne_next _ _ _)

/-- What every access of a run keeps, a run that completes keeps until pc advances. -/
theorem accessRun_next_induct (h : accessRun count access body p s = .next t) (P : Progress → Prop)
    (hstep : ∀ j q, s.iReg.toNat + j < memSize → P q → P (body j q)) (h0 : P p) : ∃ q, P q ∧ t = advance q.now := by
  obtain ⟨hc, rfl⟩ := accessRun_next h
  exact ⟨_, foldl_range_induct (P := fun _ q => P q) body count (fun j hj q hq => hstep j q (by omega) hq) h0, rfl⟩

/-- A run that faults: the record names the first address above 0xFFF, and the halted state is that of a surviving
subset of the writes of a run kept inside memory. -/
theorem accessRun_fault_induct {f : Fault} (h : accessRun count access body p s = .fault f) (P : Progress → Prop)
    (hstep : ∀ j q, s.iReg.toNat + j < memSize → P q → P (body j q)) (h0 : P p) :
    ∃ addr q, 0xFFF < addr ∧ f.kind = .memoryOutOfRange addr access ∧ P q ∧
      f.halted = halt f.kind (partialEffects q.done s) := by
  by_cases hc : count = 0 ∨ s.iReg.toNat + count ≤ memSize
  · rw [accessRun_completes hc] at h; cases h
  · rw [accessRun_faults (by tauto) (by omega)] at h
    obtain ⟨h1, h2⟩ := raise_fault h
    exact ⟨_, _, by unfold memSize; omega, h1,
      foldl_range_induct (P := fun _ q => P q) body (memSize - s.iReg.toNat) (fun j hj q hq => hstep j q (by omega) hq) h0,
      by rw [h1]; exact h2⟩

end Sys2Proof.Machine
end

