-- ==== Sys2Proof/Laws/Ports.lean ====
section
/-!
SUPPORT. What the host's ports `reset()` and `load_rom` do, once.
-/

namespace Sys2Proof.Machine

/-- `reset()` writes memory alone beside the fields it reinitialises (R201, R202). -/
theorem resetPort_eq (s : State) :
    resetPort s = { s with
      v := Vector.replicate 16 0x00#8, iReg := 0x0000#16, pc := 0x0200#16, sp := 0x00#8
      stack := Vector.replicate 16 0x0000#16, dt := 0x00#8, st := 0x00#8, display := Bitmap.blank
      faultLatch := none, mem := (resetPort s).mem } := by
  unfold resetPort
  dsimp only
  rw [State.writeBytes_eq]
  rfl

/-- Memory after `reset()`: the font region rewritten, the rest as it was (R201). -/
theorem readMem_resetPort (s : State) (a : Nat) :
    (resetPort s).readMem a =
      if a < s.cfg.fontImage.length then s.cfg.fontImage.getD a 0x00#8 else s.readMem a := by
  have h := fun t : State => State.readMem_writeBytes s.cfg.fontImage 0 a t
  simp only [Nat.zero_le, true_and, Nat.zero_add, Nat.sub_zero] at h
  exact h { s with
    v := Vector.replicate 16 0x00#8, iReg := 0x0000#16, pc := 0x0200#16, sp := 0x00#8
    stack := Vector.replicate 16 0x0000#16, dt := 0x00#8, st := 0x00#8, display := Bitmap.blank }

/-- `load_rom` of a ROM that fits writes its bytes from 0x200 (R204). -/
theorem loadRom_next {bytes : List Byte} (h : romOrigin + bytes.length ≤ memSize) (s : State) :
    loadRom bytes s = .next (s.writeBytes romOrigin bytes) := if_pos h

/-- `load_rom` of a ROM that does not fit is refused (R205). -/
theorem loadRom_refused {bytes : List Byte} (h : memSize < romOrigin + bytes.length) (s : State) :
    loadRom bytes s = .refused (.romTooLong bytes.length) := if_neg (by omega)

/-- One timer's decrement (R181). -/
theorem countDown_toNat (t : Byte) : (countDown t).toNat = t.toNat - 1 := by
  unfold countDown
  split
  · rename_i h; rw [h]; rfl
  · rename_i h
    have : t.toNat ≠ 0 := fun e => h (BitVec.eq_of_toNat_eq (by simpa using e))
    rw [BitVec.toNat_sub_of_le (by show 1 ≤ t.toNat; omega)]
    rfl

end Sys2Proof.Machine
end

