-- ==== Sys2Proof/Laws/Boot.lean ====
section
/-!
SUPPORT. What the initialisations of the devices can do, once.
-/

namespace Sys2Proof.Machine

variable {l : List Device} {u w : Devices}

/-- Initialisations of distinct devices that are not initialised yet have a meaning (R194). -/
theorem Devices.initAll_isSome (hn : l.Nodup) (hf : ∀ d ∈ l, d ∉ u.initialized) : ∃ w, u.initAll l = some w := by
  induction l generalizing u with
  | nil => exact ⟨u, rfl⟩
  | cons d rest ih =>
    obtain ⟨hd, hr⟩ := List.nodup_cons.mp hn
    simp only [Devices.initAll, Devices.initDevice, if_neg (hf d (by simp))]
    refine ih hr (fun e he => ?_)
    simp only [List.mem_cons, not_or]
    exact ⟨fun h => hd (h ▸ he), hf e (by simp [he])⟩

/-- Everything they have done where they have a meaning: each device once, its state blank afterwards, and no other
device touched (R187, R194). -/
theorem Devices.initAll_some (h : u.initAll l = some w) :
    w.initialized = l.reverse ++ u.initialized ∧ l.Nodup ∧ (∀ d ∈ l, d ∉ u.initialized) ∧
      w.display = (if .display ∈ l then Bitmap.blank else u.display) ∧
      w.keyLatch = (if .keyboard ∈ l then 0x00#8 else u.keyLatch) ∧
      w.audio = (if .audio ∈ l then Config.audioAtPowerOn else u.audio) := by
  induction l generalizing u with
  | nil => cases h; simp
  | cons d rest ih =>
    simp only [Devices.initAll, Devices.initDevice] at h
    by_cases hd : d ∈ u.initialized
    · simp [hd] at h
    · simp only [if_neg hd] at h
      obtain ⟨h1, h2, h3, h4, h5, h6⟩ := ih h
      have hdr : d ∉ rest := fun hm => by simpa using h3 d hm
      refine ⟨by simp [h1], List.nodup_cons.mpr ⟨hdr, h2⟩, fun e he => ?_, ?_, ?_, ?_⟩
      · rcases List.mem_cons.mp he with rfl | he
        · exact hd
        · exact fun hm => h3 e he (by simp [hm])
      · rw [h4]; cases d <;> simp [blankDevice]
      · rw [h5]; cases d <;> simp [blankDevice]
      · rw [h6]; cases d <;> simp [blankDevice]

end Sys2Proof.Machine
end

