-- ==== Sys2Proof/Laws/Decode.lean ====
section
/-!
SUPPORT. Fields, packed words and bytes as numbers: each definition of Decode.lean unfolded once, to arithmetic.
-/

namespace Sys2Proof

/-! ### Fields of a word -/

theorem fieldFirst_toNat (w : Word) : (fieldFirst w).toNat = w.toNat / 4096 := by
  have := w.isLt
  simp only [fieldFirst, BitVec.extractLsb'_toNat, Nat.shiftRight_eq_div_pow]; omega

theorem fieldX_toNat (w : Word) : (fieldX w).toNat = w.toNat / 256 % 16 := by
  simp only [fieldX, BitVec.extractLsb'_toNat, Nat.shiftRight_eq_div_pow]

theorem fieldY_toNat (w : Word) : (fieldY w).toNat = w.toNat / 16 % 16 := by
  simp only [fieldY, BitVec.extractLsb'_toNat, Nat.shiftRight_eq_div_pow]

theorem fieldN_toNat (w : Word) : (fieldN w).toNat = w.toNat % 16 := by
  simp only [fieldN, BitVec.extractLsb'_toNat, Nat.shiftRight_eq_div_pow]; omega

theorem fieldKk_toNat (w : Word) : (fieldKk w).toNat = w.toNat % 256 := by
  simp only [fieldKk, BitVec.extractLsb'_toNat, Nat.shiftRight_eq_div_pow]; omega

theorem fieldNnn_toNat (w : Word) : (fieldNnn w).toNat = w.toNat % 4096 := by
  simp only [fieldNnn, BitVec.extractLsb'_toNat, Nat.shiftRight_eq_div_pow]; omega

/-! ### Bytes of a word -/

theorem highByte_toNat (w : Word) : (highByte w).toNat = w.toNat / 256 := by
  have := w.isLt
  simp only [highByte, BitVec.extractLsb'_toNat, Nat.shiftRight_eq_div_pow]; omega

theorem lowByte_toNat (w : Word) : (lowByte w).toNat = w.toNat % 256 := by
  simp only [lowByte, BitVec.extractLsb'_toNat, Nat.shiftRight_eq_div_pow]; omega

/-- A byte above a byte, as a number. -/
theorem shiftLeft_or_eq_add {a b k : Nat} (h : b < 2 ^ k) : a <<< k ||| b = a * 2 ^ k + b := by
  rw [← Nat.shiftLeft_add_eq_or_of_lt h, Nat.shiftLeft_eq]

theorem wordOfBytes_toNat (hi lo : Byte) : (wordOfBytes hi lo).toNat = 256 * hi.toNat + lo.toNat := by
  have h1 := hi.isLt
  have h2 := lo.isLt
  have h3 : hi.toNat <<< 8 % 2 ^ 16 = hi.toNat <<< 8 := by rw [Nat.shiftLeft_eq]; omega
  simp only [wordOfBytes, BitVec.toNat_or, BitVec.toNat_shiftLeft, BitVec.truncate_eq_setWidth, BitVec.toNat_setWidth,
    Nat.mod_eq_of_lt (show hi.toNat < 2 ^ 16 by omega), Nat.mod_eq_of_lt (show lo.toNat < 2 ^ 16 by omega), h3]
  rw [shiftLeft_or_eq_add h2]; omega

theorem wordOfBytes_bytes (w : Word) : wordOfBytes (highByte w) (lowByte w) = w := by
  apply BitVec.eq_of_toNat_eq
  rw [wordOfBytes_toNat, highByte_toNat, lowByte_toNat]; omega

/-! ### Packed words -/

theorem append_toNat {m n : Nat} (a : BitVec m) (b : BitVec n) : (a ++ b).toNat = a.toNat * 2 ^ n + b.toNat := by
  rw [BitVec.toNat_append, shiftLeft_or_eq_add b.isLt]

theorem packNnn_toNat (f : BitVec 4) (nnn : Addr12) : (packNnn f nnn).toNat = f.toNat * 4096 + nnn.toNat :=
  append_toNat f nnn

theorem packXKk_toNat (f : BitVec 4) (x : RegIdx) (kk : Byte) :
    (packXKk f x kk).toNat = f.toNat * 4096 + x.toNat * 256 + kk.toNat := by
  have h : (packXKk f x kk).toNat = (f ++ x).toNat * 2 ^ 8 + kk.toNat := append_toNat (f ++ x) kk
  rw [h, append_toNat]; omega

theorem packXYN_toNat (f : BitVec 4) (x y : RegIdx) (n : Nibble) :
    (packXYN f x y n).toNat = f.toNat * 4096 + x.toNat * 256 + y.toNat * 16 + n.toNat := by
  have h : (packXYN f x y n).toNat = (f ++ x ++ y).toNat * 2 ^ 4 + n.toNat := append_toNat (f ++ x ++ y) n
  have h' : (f ++ x ++ y).toNat = (f ++ x).toNat * 2 ^ 4 + y.toNat := append_toNat (f ++ x) y
  rw [h, h', append_toNat]; omega

/-! ### The fields of a packed word -/

variable (f : BitVec 4) (nnn : Addr12) (x y : RegIdx) (n : Nibble) (kk : Byte)

@[simp] theorem fieldFirst_packNnn : fieldFirst (packNnn f nnn) = f := by
  apply BitVec.eq_of_toNat_eq
  have := nnn.isLt
  rw [fieldFirst_toNat, packNnn_toNat]; omega

@[simp] theorem fieldNnn_packNnn : fieldNnn (packNnn f nnn) = nnn := by
  apply BitVec.eq_of_toNat_eq
  have := nnn.isLt
  rw [fieldNnn_toNat, packNnn_toNat]; omega

@[simp] theorem fieldFirst_packXKk : fieldFirst (packXKk f x kk) = f := by
  apply BitVec.eq_of_toNat_eq
  have := x.isLt
  have := kk.isLt
  rw [fieldFirst_toNat, packXKk_toNat]; omega

@[simp] theorem fieldX_packXKk : fieldX (packXKk f x kk) = x := by
  apply BitVec.eq_of_toNat_eq
  have := x.isLt
  have := kk.isLt
  rw [fieldX_toNat, packXKk_toNat]; omega

@[simp] theorem fieldKk_packXKk : fieldKk (packXKk f x kk) = kk := by
  apply BitVec.eq_of_toNat_eq
  have := kk.isLt
  rw [fieldKk_toNat, packXKk_toNat]; omega

@[simp] theorem fieldFirst_packXYN : fieldFirst (packXYN f x y n) = f := by
  apply BitVec.eq_of_toNat_eq
  have := x.isLt
  have := y.isLt
  have := n.isLt
  rw [fieldFirst_toNat, packXYN_toNat]; omega

@[simp] theorem fieldX_packXYN : fieldX (packXYN f x y n) = x := by
  apply BitVec.eq_of_toNat_eq
  have := x.isLt
  have := y.isLt
  have := n.isLt
  rw [fieldX_toNat, packXYN_toNat]; omega

@[simp] theorem fieldY_packXYN : fieldY (packXYN f x y n) = y := by
  apply BitVec.eq_of_toNat_eq
  have := y.isLt
  have := n.isLt
  rw [fieldY_toNat, packXYN_toNat]; omega

@[simp] theorem fieldN_packXYN : fieldN (packXYN f x y n) = n := by
  apply BitVec.eq_of_toNat_eq
  have := n.isLt
  rw [fieldN_toNat, packXYN_toNat]; omega

/-! ### The masks of R85 on packed words: whole nibbles are kept or cleared -/

theorem packNnn_and_F000 : packNnn f nnn &&& 0xF000#16 = packNnn f 0#12 := by
  unfold packNnn
  rw [show 0xF000#16 = BitVec.allOnes 4 ++ 0#12 from rfl, BitVec.and_append]
  simp only [BitVec.and_allOnes, BitVec.and_zero]

theorem packXKk_and_F000 : packXKk f x kk &&& 0xF000#16 = packXKk f 0#4 0#8 := by
  unfold packXKk
  rw [show 0xF000#16 = BitVec.allOnes 4 ++ 0#4 ++ 0#8 from rfl, BitVec.and_append, BitVec.and_append]
  simp only [BitVec.and_allOnes, BitVec.and_zero]

theorem packXKk_and_F0FF : packXKk f x kk &&& 0xF0FF#16 = packXKk f 0#4 kk := by
  unfold packXKk
  rw [show 0xF0FF#16 = BitVec.allOnes 4 ++ 0#4 ++ BitVec.allOnes 8 from rfl, BitVec.and_append, BitVec.and_append]
  simp only [BitVec.and_allOnes, BitVec.and_zero]

theorem packXYN_and_F000 : packXYN f x y n &&& 0xF000#16 = packXYN f 0#4 0#4 0#4 := by
  unfold packXYN
  rw [show 0xF000#16 = BitVec.allOnes 4 ++ 0#4 ++ 0#4 ++ 0#4 from rfl, BitVec.and_append, BitVec.and_append,
    BitVec.and_append]
  simp only [BitVec.and_allOnes, BitVec.and_zero]

theorem packXYN_and_F00F : packXYN f x y n &&& 0xF00F#16 = packXYN f 0#4 0#4 n := by
  unfold packXYN
  rw [show 0xF00F#16 = BitVec.allOnes 4 ++ 0#4 ++ 0#4 ++ BitVec.allOnes 4 from rfl, BitVec.and_append,
    BitVec.and_append, BitVec.and_append]
  simp only [BitVec.and_allOnes, BitVec.and_zero]

/-! ### The encodings as the rules write them are the packed words -/

theorem x_in_place : (x.zeroExtend 16 <<< 8 : Word) = (0#4 ++ x ++ 0#8 : BitVec (4+4+8)) := by
  apply BitVec.eq_of_toNat_eq
  have := x.isLt
  have h : (0#4 ++ x ++ 0#8 : BitVec (4+4+8)).toNat = (0#4 ++ x).toNat * 2 ^ 8 + (0#8).toNat := append_toNat _ _
  rw [h, append_toNat, BitVec.toNat_shiftLeft, Nat.shiftLeft_eq]
  simp; omega

theorem kk_in_place : (kk.zeroExtend 16 : Word) = (0#4 ++ 0#4 ++ kk : BitVec (4+4+8)) := by
  apply BitVec.eq_of_toNat_eq
  have := kk.isLt
  have h : (0#4 ++ 0#4 ++ kk : BitVec (4+4+8)).toNat = (0#4 ++ 0#4).toNat * 2 ^ 8 + kk.toNat := append_toNat _ _
  rw [h, append_toNat]
  simp; omega

theorem wordXKk_eq : wordXKk (packXKk f 0#4 0#8) x kk = packXKk f x kk := by
  unfold wordXKk
  rw [x_in_place, kk_in_place]
  unfold packXKk
  rw [BitVec.or_append, BitVec.or_append, BitVec.or_append, BitVec.or_append]
  simp only [BitVec.or_zero, BitVec.zero_or]

theorem wordX_eq : wordX (packXKk f 0#4 kk) x = packXKk f x kk := by
  unfold wordX
  rw [x_in_place]
  unfold packXKk
  rw [BitVec.or_append, BitVec.or_append]
  simp only [BitVec.or_zero, BitVec.zero_or]

theorem wordNnn_eq : wordNnn (packNnn f 0#12) nnn = packNnn f nnn := by
  have h : (nnn.zeroExtend 16 : Word) = (0#4 ++ nnn : BitVec (4+12)) := by
    apply BitVec.eq_of_toNat_eq
    have := nnn.isLt
    rw [append_toNat]
    simp; omega
  unfold wordNnn packNnn
  rw [h, BitVec.or_append]
  simp only [BitVec.or_zero, BitVec.zero_or]

theorem packXYN_eq_packXKk : packXYN f x y n = packXKk f x (y ++ n) := by
  apply BitVec.eq_of_toNat_eq
  have h := append_toNat y n
  rw [packXYN_toNat, packXKk_toNat, h]; omega

theorem y_in_place : (y.zeroExtend 16 <<< 4 : Word) = (0#4 ++ 0#4 ++ (y ++ 0#4 : BitVec (4+4)) : BitVec (4+4+(4+4))) := by
  apply BitVec.eq_of_toNat_eq
  have := y.isLt
  have h : (0#4 ++ 0#4 ++ (y ++ 0#4 : BitVec (4+4)) : BitVec (4+4+(4+4))).toNat = (0#4 ++ 0#4).toNat * 2 ^ 8 + (y ++ 0#4).toNat := append_toNat _ _
  rw [h, append_toNat, append_toNat, BitVec.toNat_shiftLeft, Nat.shiftLeft_eq]
  simp; omega

theorem wordXY_eq : wordXY (packXYN f 0#4 0#4 n) x y = packXYN f x y n := by
  unfold wordXY
  rw [x_in_place, y_in_place, packXYN_eq_packXKk, packXYN_eq_packXKk]
  unfold packXKk
  rw [BitVec.or_append, BitVec.or_append, BitVec.or_append, BitVec.or_append]
  simp only [BitVec.or_zero, BitVec.zero_or]
  rw [BitVec.or_append]
  simp only [BitVec.or_zero, BitVec.zero_or]

theorem wordXYN_eq : wordXYN (packXYN f 0#4 0#4 0#4) x y n = packXYN f x y n := by
  have h : (n.zeroExtend 16 : Word) = (0#4 ++ 0#4 ++ (0#4 ++ n : BitVec (4+4)) : BitVec (4+4+(4+4))) := by
    apply BitVec.eq_of_toNat_eq
    have := n.isLt
    have h : (0#4 ++ 0#4 ++ (0#4 ++ n : BitVec (4+4)) : BitVec (4+4+(4+4))).toNat =
      (0#4 ++ 0#4).toNat * 2 ^ 8 + (0#4 ++ n).toNat := append_toNat _ _
    rw [h, append_toNat, append_toNat]
    simp; omega
  have hxy := wordXY_eq f x y 0#4
  unfold wordXY at hxy
  unfold wordXYN
  rw [hxy, h, packXYN_eq_packXKk, packXYN_eq_packXKk]
  unfold packXKk
  rw [BitVec.or_append, BitVec.or_append]
  simp only [BitVec.or_zero]
  rw [BitVec.or_append]
  simp only [BitVec.or_zero, BitVec.zero_or]

end Sys2Proof
end

