-- ==== Sys2Proof/Laws/Display.lean ====
section
/-!
SUPPORT. What one row of the blitter can do, once.
-/

namespace Sys2Proof.Machine

/-- What every pixel drawn inside the bitmap keeps and every collision keeps, a row of the blitter keeps (R151, R152). -/
theorem drawRow_induct {x y : RegIdx} {s : State} {row : Nat} {p : Progress} (P : Progress → Prop)
    (hpixel : ∀ q a b on, a < q.now.cfg.displayWidth ∧ b < q.now.cfg.displayHeight → P q → P (q.emit (.pixel a b on)))
    (hflag : ∀ q, P q → P (q.emit (.register vF collisionFlag))) (h0 : P p) : P (drawRow x y s row p) := by
  unfold drawRow
  dsimp only
  refine foldl_range_induct (P := fun _ q => P q) (fun col q => drawColumn x y s row _ col q) 8 (fun j _ q hq => ?_) h0
  unfold drawColumn xorPixel
  dsimp only
  split
  · split
    · rename_i hc
      split
      · exact hflag _ (hpixel _ _ _ _ hc hq)
      · exact hpixel _ _ _ _ hc hq
    · exact hq
  · exact hq

end Sys2Proof.Machine
end

