-- ==== Sys2Proof/Laws/Frame.lean ====
section
/-!
SUPPORT. The frame of each update: `UnchangedBut` composes, weakens, and holds of every named write.
-/

namespace Sys2Proof

open Sys2Proof.Machine

variable {w w' : List Part} {s t u : State}

theorem UnchangedBut.refl (w : List Part) (s : State) : UnchangedBut w s s := by
  constructor <;> simp

theorem UnchangedBut.trans (h : UnchangedBut w s t) (k : UnchangedBut w t u) : UnchangedBut w s u where
  registers r hr := (k.registers r hr).trans (h.registers r hr)
  index hr := (k.index hr).trans (h.index hr)
  stackPointer hr := (k.stackPointer hr).trans (h.stackPointer hr)
  stack j hr := (k.stack j hr).trans (h.stack j hr)
  delayTimer hr := (k.delayTimer hr).trans (h.delayTimer hr)
  soundTimer hr := (k.soundTimer hr).trans (h.soundTimer hr)
  memory a hr := (k.memory a hr).trans (h.memory a hr)
  display hr x y := (k.display hr x y).trans (h.display hr x y)
  draws hr := (k.draws hr).trans (h.draws hr)
  faultLatch := k.faultLatch.trans h.faultLatch
  keyLatch := k.keyLatch.trans h.keyLatch
  audio := k.audio.trans h.audio
  config := k.config.trans h.config

theorem UnchangedBut.mono (hw : w ⊆ w') (h : UnchangedBut w s t) : UnchangedBut w' s t where
  registers r hr := h.registers r (fun m => hr (hw m))
  index hr := h.index (fun m => hr (hw m))
  stackPointer hr := h.stackPointer (fun m => hr (hw m))
  stack j hr := h.stack j (fun m => hr (hw m))
  delayTimer hr := h.delayTimer (fun m => hr (hw m))
  soundTimer hr := h.soundTimer (fun m => hr (hw m))
  memory a hr := h.memory a (fun m => hr (hw m))
  display hr := h.display (fun m => hr (hw m))
  draws hr := h.draws (fun m => hr (hw m))
  faultLatch := h.faultLatch
  keyLatch := h.keyLatch
  audio := h.audio
  config := h.config

theorem unchangedBut_setV (r : RegIdx) (b : Byte) (s : State) (h : Part.v r ∈ w) : UnchangedBut w s (s.setV r b) where
  registers q hq := State.getV_setV_ne s (fun e => hq (by rw [e]; exact h)) b
  index _ := rfl
  stackPointer _ := rfl
  stack _ _ := rfl
  delayTimer _ := rfl
  soundTimer _ := rfl
  memory _ _ := rfl
  display _ _ _ := rfl
  draws _ := rfl
  faultLatch := rfl
  keyLatch := rfl
  audio := rfl
  config := rfl

theorem unchangedBut_setPc (a : Word) (s : State) : UnchangedBut w s (s.setPc a) := by
  constructor <;> intros <;> rfl

theorem unchangedBut_advance (s : State) : UnchangedBut w s (advance s) := unchangedBut_setPc _ _

theorem unchangedBut_skipWhen (c : Bool) (s : State) : UnchangedBut w s (skipWhen c s) := unchangedBut_setPc _ _

theorem unchangedBut_setI (a : Word) (s : State) (h : Part.index ∈ w) : UnchangedBut w s (s.setI a) := by
  constructor <;> intros <;> first | rfl | contradiction

theorem unchangedBut_setSp (b : Byte) (s : State) (h : Part.sp ∈ w) : UnchangedBut w s (s.setSp b) := by
  constructor <;> intros <;> first | rfl | contradiction

theorem unchangedBut_setDt (b : Byte) (s : State) (h : Part.dt ∈ w) : UnchangedBut w s (s.setDt b) := by
  constructor <;> intros <;> first | rfl | contradiction

theorem unchangedBut_setSt (b : Byte) (s : State) (h : Part.st ∈ w) : UnchangedBut w s (s.setSt b) := by
  constructor <;> intros <;> first | rfl | contradiction

theorem unchangedBut_draw (s : State) (h : Part.draws ∈ w) : UnchangedBut w s s.draw := by
  constructor <;> intros <;> first | rfl | contradiction

theorem unchangedBut_setDisplay (d : Bitmap) (s : State) (h : Part.display ∈ w) : UnchangedBut w s (s.setDisplay d) := by
  constructor <;> intros <;> first | rfl | contradiction

theorem unchangedBut_setStack (j : Fin 16) (a : Word) (s : State) (h : Part.stack j.val ∈ w) :
    UnchangedBut w s (s.setStack j a) where
  registers _ _ := rfl
  index _ := rfl
  stackPointer _ := rfl
  stack i hi := by
    rw [State.getStack_setStack, if_neg (fun e => hi (by rw [e]; exact h))]
  delayTimer _ := rfl
  soundTimer _ := rfl
  memory _ _ := rfl
  display _ _ _ := rfl
  draws _ := rfl
  faultLatch := rfl
  keyLatch := rfl
  audio := rfl
  config := rfl

theorem unchangedBut_writeMem (a : Nat) (b : Byte) (s : State) (h : Part.memory a ∈ w) :
    UnchangedBut w s (s.writeMem a b) where
  registers _ _ := rfl
  index _ := rfl
  stackPointer _ := rfl
  stack _ _ := rfl
  delayTimer _ := rfl
  soundTimer _ := rfl
  memory k hk := by
    rw [State.readMem_writeMem, if_neg (fun e => hk (by rw [e]; exact h))]
  display _ _ _ := rfl
  draws _ := rfl
  faultLatch := rfl
  keyLatch := rfl
  audio := rfl
  config := rfl

/-- The part that a write writes. -/
def Machine.Effect.part : Effect → Part
  | .memory a _ => .memory a
  | .register r _ => .v r
  | .pixel _ _ _ => .display

/-- A write changes its own part alone. -/
theorem unchangedBut_apply (e : Effect) (s : State) (h : e.part ∈ w) : UnchangedBut w s (e.apply s) := by
  cases e with
  | memory a b => exact unchangedBut_writeMem a b s h
  | register r b => exact unchangedBut_setV r b s h
  | pixel x y on => exact unchangedBut_setDisplay _ s h

theorem unchangedBut_emit (p : Progress) (e : Effect) (h : e.part ∈ w) : UnchangedBut w p.now (p.emit e).now :=
  unchangedBut_apply e p.now h

/-- Whatever subset of its writes a fault part-way leaves, nothing outside their parts is changed but the count of
free values. -/
theorem unchangedBut_partialEffects {es : List Effect} (s : State) (h : ∀ e ∈ es, e.part ∈ w) (hd : Part.draws ∈ w) :
    UnchangedBut w s (partialEffects es s) :=
  partialEffects_induct (P := UnchangedBut w s) (fun e he t ht => ht.trans (unchangedBut_apply e t (h e he)))
    (fun t ht => ht.trans (unchangedBut_draw t hd)) (.refl w s)

end Sys2Proof
end

