-- ==== Sys2Proof/Laws/PerInstr.lean ====
section
/-!
SUPPORT. Statements about every instruction as syntax, made per constructor. Family `EncodesToRow`: the word of an
instruction matches the instruction's own row of the opcode map (30_encoding.md R85).
-/

namespace Sys2Proof.Laws.EncodesToRow

/-- The word of `i` matches the row of `i`. -/
def Statement (i : Instr) : Prop := matchesRow (encode i) (rowOf i) = true

/-- A word matches a row when the masked word is the pattern. -/
theorem statement_of {i : Instr} {r : OpcodeRow} (hr : rowOf i = r) (h : encode i &&& r.mask = r.pattern) :
    Statement i := by
  subst hr
  simpa [Statement, matchesRow] using h

theorem cls : Statement .cls := by unfold Statement; decide
theorem ret : Statement .ret := by unfold Statement; decide
theorem jp (nnn : Addr12) : Statement (.jp nnn) := statement_of rfl (packNnn_and_F000 _ _)
theorem call (nnn : Addr12) : Statement (.call nnn) := statement_of rfl (packNnn_and_F000 _ _)
theorem seVxKk (x : RegIdx) (kk : Byte) : Statement (.seVxKk x kk) := statement_of rfl (packXKk_and_F000 _ _ _)
theorem sneVxKk (x : RegIdx) (kk : Byte) : Statement (.sneVxKk x kk) := statement_of rfl (packXKk_and_F000 _ _ _)
theorem ldVxKk (x : RegIdx) (kk : Byte) : Statement (.ldVxKk x kk) := statement_of rfl (packXKk_and_F000 _ _ _)
theorem addVxKk (x : RegIdx) (kk : Byte) : Statement (.addVxKk x kk) := statement_of rfl (packXKk_and_F000 _ _ _)
theorem ldVxVy (x y : RegIdx) : Statement (.ldVxVy x y) := statement_of rfl (packXYN_and_F00F _ _ _ _)
theorem andVxVy (x y : RegIdx) : Statement (.andVxVy x y) := statement_of rfl (packXYN_and_F00F _ _ _ _)
theorem xorVxVy (x y : RegIdx) : Statement (.xorVxVy x y) := statement_of rfl (packXYN_and_F00F _ _ _ _)
theorem addVxVy (x y : RegIdx) : Statement (.addVxVy x y) := statement_of rfl (packXYN_and_F00F _ _ _ _)
theorem subVxVy (x y : RegIdx) : Statement (.subVxVy x y) := statement_of rfl (packXYN_and_F00F _ _ _ _)
theorem shrVx (x y : RegIdx) : Statement (.shrVx x y) := statement_of rfl (packXYN_and_F00F _ _ _ _)
theorem ldINnn (nnn : Addr12) : Statement (.ldINnn nnn) := statement_of rfl (packNnn_and_F000 _ _)
theorem rndVxKk (x : RegIdx) (kk : Byte) : Statement (.rndVxKk x kk) := statement_of rfl (packXKk_and_F000 _ _ _)
theorem drw (x y : RegIdx) (n : Nibble) : Statement (.drw x y n) := statement_of rfl (packXYN_and_F000 _ _ _ _)
theorem skp (x : RegIdx) : Statement (.skp x) := statement_of rfl (packXKk_and_F0FF _ _ _)
theorem sknp (x : RegIdx) : Statement (.sknp x) := statement_of rfl (packXKk_and_F0FF _ _ _)
theorem ldVxDt (x : RegIdx) : Statement (.ldVxDt x) := statement_of rfl (packXKk_and_F0FF _ _ _)
theorem ldVxK (x : RegIdx) : Statement (.ldVxK x) := statement_of rfl (packXKk_and_F0FF _ _ _)
theorem ldDtVx (x : RegIdx) : Statement (.ldDtVx x) := statement_of rfl (packXKk_and_F0FF _ _ _)
theorem ldStVx (x : RegIdx) : Statement (.ldStVx x) := statement_of rfl (packXKk_and_F0FF _ _ _)
theorem addIVx (x : RegIdx) : Statement (.addIVx x) := statement_of rfl (packXKk_and_F0FF _ _ _)
theorem ldFVx (x : RegIdx) : Statement (.ldFVx x) := statement_of rfl (packXKk_and_F0FF _ _ _)
theorem ldBVx (x : RegIdx) : Statement (.ldBVx x) := statement_of rfl (packXKk_and_F0FF _ _ _)
theorem ldMemVx (x : RegIdx) : Statement (.ldMemVx x) := statement_of rfl (packXKk_and_F0FF _ _ _)
theorem ldVxMem (x : RegIdx) : Statement (.ldVxMem x) := statement_of rfl (packXKk_and_F0FF _ _ _)

end Sys2Proof.Laws.EncodesToRow
end

