-- ==== Sys2Proof/Laws/Step.lean ====
section
/-!
SUPPORT. What the fetch and the step can do, once.
-/

namespace Sys2Proof.Machine

/-- A fetch gives a word only where both its bytes lie in memory (R101). -/
theorem fetch_word {s : State} {w : Word} (h : fetch s = .word w) :
    s.pc.toNat + 1 < memSize ∧ w = wordOfBytes (s.readMem s.pc.toNat) (s.readMem (s.pc.toNat + 1)) := by
  unfold fetch at h
  split at h
  · cases h
  · split at h
    · cases h
    · cases h; exact ⟨by omega, rfl⟩

/-- Everything a step that answers a next state has done: an unhalted machine fetched a word, decoded it and ran it. -/
theorem step_next {s t : State} (h : step s = .next t) :
    s.faultLatch = none ∧ ∃ w i, fetch s = .word w ∧ decodeWord w = some i ∧ exec i s = .next t := by
  unfold step stepPort at h
  split at h
  · cases h
  · rename_i hl
    refine ⟨hl, ?_⟩
    unfold cycle at h
    split at h
    · exact absurd h (raise_ne_next _ _ _)
    · rename_i w hw
      split at h
      · exact absurd h (raise_ne_next _ _ _)
      · rename_i i hi
        exact ⟨w, i, hw, hi, h⟩

/-- Everything a step that faults has done: the fetch, the dispatch or the instruction raised the fault (R175). -/
theorem step_fault {s : State} {f : Fault} (h : step s = .fault f) :
    s.faultLatch = none ∧
      ((∃ addr, fetch s = .outside addr ∧ raise (.memoryOutOfRange addr .fetch) s = .fault f) ∨
       (∃ w, fetch s = .word w ∧ decodeWord w = none ∧ raise (.unknownInstruction w) s = .fault f) ∨
       (∃ w i, fetch s = .word w ∧ decodeWord w = some i ∧ exec i s = .fault f)) := by
  unfold step stepPort at h
  split at h
  · cases h
  · rename_i hl
    refine ⟨hl, ?_⟩
    unfold cycle at h
    split at h
    · rename_i a ha
      exact .inl ⟨a, ha, h⟩
    · rename_i w hw
      split at h
      · rename_i hi
        exact .inr (.inl ⟨w, hw, hi, h⟩)
      · rename_i i hi
        exact .inr (.inr ⟨w, i, hw, hi, h⟩)

end Sys2Proof.Machine
end

