-- ==== Sys2Proof/Tests/Slice0.lean ====
section
/-!
SUPPORT. The model's own tests. Every expected value is from the spec: a test vector of 95_test_vectors.md, named in
the test's comment, or the encoding line of the instruction's rule. A `witness_` theorem shows a state and operands that
meet the hypotheses of an obligation, at the boundary values of each of its clauses.
-/

namespace Sys2Proof.Tests

open Sys2Proof.Machine

/-! ### Building and comparing states -/

/-- `s` with the registers listed set. -/
def regs (l : List (RegIdx × Byte)) (s : State) : State := l.foldl (fun u p => u.setV p.1 p.2) s

/-- The power-on state of the spec's conventions with some registers and I set. -/
def machine (i : Word) (l : List (RegIdx × Byte)) : State := regs l (State.reset.setI i)

/-- The same machine with VF_OPERAND_READ = snapshot. -/
def snapshot (s : State) : State := { s with cfg := ⟨64, 32, Config.standardFont, .snapshot⟩ }

/-- The next state passes the check; a fault or a refusal does not. -/
def after (r : Result) (check : State → Bool) : Bool :=
  match r with
  | .next t => check t
  | .fault _ => false
  | .refused _ => false

/-- The fault's kind and the pc and latch of the state it leaves. -/
def faults (r : Result) (k : FaultKind) (pc : Word) : Bool :=
  match r with
  | .next _ => false
  | .fault f => f.kind == k && f.halted.pc == pc && f.halted.faultLatch == some ⟨k, pc⟩
  | .refused _ => false

/-- One step on `s` with the word `w` at its pc. -/
def stepOn (w : Nat) (s : State) : Result := step (s.withFetchWord 16 w)

/-! ### Well-formedness -/

theorem test_default_parameters_well_formed : Config.default.wellFormed = true := by decide
theorem test_width_zero_refused : Config.wellFormed ⟨0, 32, [], .sequential⟩ = false := by decide
theorem test_height_zero_refused : Config.wellFormed ⟨64, 0, [], .sequential⟩ = false := by decide
theorem test_font_too_long_refused :
    Config.wellFormed ⟨64, 32, List.replicate 0x201 0x00#8, .sequential⟩ = false := by
  unfold Config.wellFormed Config.fontFits
  rw [List.length_replicate]
  decide
theorem test_font_of_0x200_bytes_fits :
    Config.wellFormed ⟨1, 1, List.replicate 0x200 0x00#8, .snapshot⟩ = true := by
  unfold Config.wellFormed Config.fontFits
  rw [List.length_replicate]
  decide

/-! ### Decoding: a word of every row, written out from the row of 30_encoding.md R85 -/

/-- Family 0 and control transfer, bit by bit. -/
theorem test_decode_flow :
    decodeWord 0b0000000011100000#16 = some .cls ∧ decodeWord 0b0000000011101110#16 = some .ret ∧
    decodeWord 0b0001001011110000#16 = some (.jp 0x2F0) ∧ decodeWord 0b0010000100100011#16 = some (.call 0x123) ∧
    decodeWord 0b0011001101000010#16 = some (.seVxKk 3 0x42) ∧
    decodeWord 0b0100010111111111#16 = some (.sneVxKk 5 0xFF) := by decide

/-- Loads and the ALU. -/
theorem test_decode_alu :
    decodeWord 0b0110101000000101#16 = some (.ldVxKk 0xA 0x05) ∧ decodeWord 0x7305#16 = some (.addVxKk 3 0x05) ∧
    decodeWord 0b1000000100100000#16 = some (.ldVxVy 1 2) ∧ decodeWord 0x8122#16 = some (.andVxVy 1 2) ∧
    decodeWord 0x8123#16 = some (.xorVxVy 1 2) ∧ decodeWord 0x8AB4#16 = some (.addVxVy 0xA 0xB) ∧
    decodeWord 0x8F15#16 = some (.subVxVy 0xF 1) ∧ decodeWord 0x8256#16 = some (.shrVx 2 5) ∧
    decodeWord 0b1100001100001111#16 = some (.rndVxKk 3 0x0F) := by decide

/-- Index register and memory. -/
theorem test_decode_index :
    decodeWord 0b1010101111001101#16 = some (.ldINnn 0xBCD) ∧ decodeWord 0xF21E#16 = some (.addIVx 2) ∧
    decodeWord 0xFA29#16 = some (.ldFVx 0xA) ∧ decodeWord 0xF033#16 = some (.ldBVx 0) ∧
    decodeWord 0b1111001001010101#16 = some (.ldMemVx 2) ∧ decodeWord 0xFF65#16 = some (.ldVxMem 0xF) := by decide

/-- Display, keyboard and timers. -/
theorem test_decode_devices :
    decodeWord 0b1101000100100101#16 = some (.drw 1 2 5) ∧ decodeWord 0b1110010010011110#16 = some (.skp 4) ∧
    decodeWord 0xE4A1#16 = some (.sknp 4) ∧ decodeWord 0b1111010100000111#16 = some (.ldVxDt 5) ∧
    decodeWord 0xF10A#16 = some (.ldVxK 1) ∧ decodeWord 0xF115#16 = some (.ldDtVx 1) ∧
    decodeWord 0xF218#16 = some (.ldStVx 2) := by decide

/-- T1: the words the standard knows and this core does not, and neighbours of its rows. -/
theorem test_decode_unknown :
    decodeWord 0x0000#16 = none ∧ decodeWord 0x0123#16 = none ∧ decodeWord 0x01E0#16 = none ∧ decodeWord 0x0FEE#16 = none ∧
    decodeWord 0x00E1#16 = none ∧ decodeWord 0x5120#16 = none ∧ decodeWord 0x8121#16 = none ∧ decodeWord 0x8127#16 = none ∧
    decodeWord 0x812E#16 = none ∧ decodeWord 0x812F#16 = none ∧ decodeWord 0x9120#16 = none ∧ decodeWord 0xB234#16 = none ∧
    decodeWord 0xE19F#16 = none ∧ decodeWord 0xF100#16 = none ∧ decodeWord 0xF175#16 = none ∧ decodeWord 0xFFFF#16 = none := by decide

/-- Bytes: two per instruction, most significant first, the rest handed back. -/
theorem test_decode_bytes :
    decodeBytes [0x6A, 0x05, 0x77] = .ok (.ldVxKk 0xA 0x05, [0x77]) ∧ decodeBytes [0x6A] = .error .tooShort ∧
    decodeBytes [0x50, 0x10] = .error (.unknownWord 0x5010) ∧ encodeBytes (.ldVxKk 0xA 0x05) = [0x6A, 0x05] ∧
    decodeTableWord 16 0xF265 = some (.ldVxMem 2) ∧ decodeTableWord 16 0x5010 = none := ⟨rfl, rfl, rfl, rfl, rfl, rfl⟩

/-! ### Fetch (T2) -/

theorem test_fetch_big_endian :
    after (stepOn 0x6A05 State.reset) (fun t => t.getV 0xA == 0x05#8 && t.pc == 0x202#16) = true := by decide
theorem test_fetch_at_odd_pc :
    after (stepOn 0x6A05 (State.reset.setPc 0x201)) (fun t => t.getV 0xA == 0x05#8 && t.pc == 0x203#16) = true := by
  decide
theorem test_fetch_at_the_end :
    after (stepOn 0x6A05 (State.reset.setPc 0xFFE)) (fun t => t.getV 0xA == 0x05#8 && t.pc == 0x1000#16) = true := by
  decide
theorem test_fetch_does_not_wrap :
    faults (step (State.reset.setPc 0xFFF)) (.memoryOutOfRange 0x1000 .fetch) 0xFFF = true := by decide
/-- S9. -/
theorem test_unknown_word_faults : faults (stepOn 0x0123 State.reset) (.unknownInstruction 0x0123) 0x200 = true := by
  decide
/-- T2: a machine with no ROM fetches 0x0000. -/
theorem test_step_without_a_rom : faults (step State.reset) (.unknownInstruction 0x0000) 0x200 = true := by decide

/-! ### Control transfer (S5, S7, T3) -/

theorem test_jp_self : after (stepOn 0x1200 State.reset) (fun t => t.pc == 0x200#16) = true := by decide
theorem test_jp_odd : after (stepOn 0x1201 State.reset) (fun t => t.pc == 0x201#16) = true := by decide
theorem test_call_pushes :
    after (stepOn 0x2123 (State.reset.setPc 0xCBD))
      (fun t => t.pc == 0x123#16 && t.getStack 0 == 0xCBF#16 && t.sp == 0x01#8) = true := by decide
theorem test_call_overflows :
    faults (stepOn 0x2300 (State.reset.setSp 16)) (.stackOverflow 16) 0x200 = true := by decide
theorem test_ret_pops :
    after (stepOn 0x00EE ((State.reset.setSp 2).setStack 1 0x456))
      (fun t => t.pc == 0x456#16 && t.sp == 0x01#8 && t.getStack 1 == 0x456#16) = true := by decide
theorem test_ret_underflows : faults (stepOn 0x00EE State.reset) (.stackUnderflow 0) 0x200 = true := by decide
theorem test_se :
    (after (stepOn 0x3342 (machine 0 [(3, 0x42)])) (fun t => t.pc == 0x204#16) &&
     after (stepOn 0x3342 (machine 0 [(3, 0x41)])) (fun t => t.pc == 0x202#16)) = true := by decide
theorem test_sne :
    (after (stepOn 0x4342 (machine 0 [(3, 0x42)])) (fun t => t.pc == 0x202#16) &&
     after (stepOn 0x4342 (machine 0 [(3, 0x41)])) (fun t => t.pc == 0x204#16)) = true := by decide

/-! ### ALU (S2 to S4, T4) -/

theorem test_ld_vf : after (stepOn 0x6F07 State.reset) (fun t => t.getV 0xF == 0x07#8) = true := by decide
theorem test_add_immediate_no_flag :
    after (stepOn 0x7AFF (machine 0 [(0xA, 0x01), (0xF, 0x55)])) (fun t => t.getV 0xA == 0x00#8 && t.getV 0xF == 0x55#8)
      = true := by decide
theorem test_ld_register :
    after (stepOn 0x8120 (machine 0 [(2, 0x9A)])) (fun t => t.getV 1 == 0x9A#8 && t.getV 2 == 0x9A#8) = true := by decide
theorem test_and :
    after (stepOn 0x8122 (machine 0 [(1, 0xF0), (2, 0x3C), (0xF, 0x77)]))
      (fun t => t.getV 1 == 0x30#8 && t.getV 0xF == 0x77#8) = true := by decide
theorem test_xor :
    after (stepOn 0x8123 (machine 0 [(1, 0xF0), (2, 0x3C), (0xF, 0x77)]))
      (fun t => t.getV 1 == 0xCC#8 && t.getV 0xF == 0x77#8) = true := by decide
theorem test_add_carry :
    (after (stepOn 0x8124 (machine 0 [(1, 0xFF), (2, 0x02)])) (fun t => t.getV 1 == 0x01#8 && t.getV 0xF == 0x01#8) &&
     after (stepOn 0x8124 (machine 0 [(1, 0xFF), (2, 0x00)])) (fun t => t.getV 1 == 0xFF#8 && t.getV 0xF == 0x00#8))
      = true := by decide
theorem test_add_into_vf :
    (after (stepOn 0x8F14 (machine 0 [(0xF, 0xFF), (1, 0x02)])) (fun t => t.getV 0xF == 0x01#8) &&
     after (stepOn 0x81F4 (machine 0 [(1, 0xFF), (0xF, 0x02)])) (fun t => t.getV 1 == 0x01#8 && t.getV 0xF == 0x01#8))
      = true := by decide
theorem test_sub :
    (after (stepOn 0x8125 (machine 0 [(1, 0x09), (2, 0x0F)])) (fun t => t.getV 1 == 0xFA#8 && t.getV 0xF == 0x00#8) &&
     after (stepOn 0x8125 (machine 0 [(1, 0x05), (2, 0x05)])) (fun t => t.getV 1 == 0x00#8 && t.getV 0xF == 0x00#8))
      = true := by decide
theorem test_sub_aliases_vf :
    (after (stepOn 0x8F15 (machine 0 [(0xF, 0x09), (1, 0x04)])) (fun t => t.getV 0xF == 0xFD#8) &&
     after (stepOn 0x8F15 (snapshot (machine 0 [(0xF, 0x09), (1, 0x04)]))) (fun t => t.getV 0xF == 0x05#8) &&
     after (stepOn 0x81F5 (machine 0 [(1, 0x09), (0xF, 0x04)])) (fun t => t.getV 1 == 0x08#8 && t.getV 0xF == 0x01#8) &&
     after (stepOn 0x81F5 (snapshot (machine 0 [(1, 0x09), (0xF, 0x04)])))
       (fun t => t.getV 1 == 0x05#8 && t.getV 0xF == 0x01#8)) = true := by decide
theorem test_shr :
    after (stepOn 0x8256 (machine 0 [(2, 0x85), (5, 0xFF)])) (fun t => t.getV 2 == 0x42#8 && t.getV 0xF == 0x01#8) = true := by
  decide
theorem test_shr_of_vf :
    (after (stepOn 0x8F06 (machine 0 [(0xF, 0x05)])) (fun t => t.getV 0xF == 0x00#8) &&
     after (stepOn 0x8F06 (snapshot (machine 0 [(0xF, 0x05)]))) (fun t => t.getV 0xF == 0x02#8)) = true := by decide
/-- T4: C300 gives 0 and C3F0 clears the low nibble, whatever is drawn. -/
theorem test_rnd_masks :
    ∃ t u, exec (.rndVxKk 3 0x00) State.reset = .next t ∧ t.getV 3 = 0x00#8 ∧
      exec (.rndVxKk 3 0xF0) State.reset = .next u ∧ (u.getV 3).getLsbD 3 = false := by
  refine ⟨_, _, rfl, ?_, rfl, ?_⟩
  · show (State.setV _ 3 _).getV 3 = _
    rw [State.getV_setV_self]
    exact BitVec.and_zero
  · show ((State.setV _ 3 _).getV 3).getLsbD 3 = _
    rw [State.getV_setV_self]
    simp

/-! ### Index register and memory (T5) -/

theorem test_ld_i : after (stepOn 0xAFFF State.reset) (fun t => t.iReg == 0x0FFF#16) = true := by decide
theorem test_add_i_no_flag :
    (after (stepOn 0xF21E (machine 0x0FFF [(2, 0x01)])) (fun t => t.iReg == 0x1000#16 && t.getV 0xF == 0x00#8) &&
     after (stepOn 0xF21E (machine 0xFFFF [(2, 0x01)])) (fun t => t.iReg == 0x0000#16)) = true := by decide
theorem test_ld_f :
    (after (stepOn 0xFA29 (machine 0 [(0xA, 0x0A)])) (fun t => t.iReg == 0x0032#16) &&
     after (stepOn 0xF029 (machine 0 [(0, 0xFF)])) (fun t => t.iReg == 0x04FB#16)) = true := by decide
theorem test_bcd :
    after (stepOn 0xF033 (machine 0x300 [(0, 0x9C)]))
      (fun t => t.readMem 0x300 == 0x01#8 && t.readMem 0x301 == 0x05#8 && t.readMem 0x302 == 0x06#8 && t.iReg == 0x300#16)
      = true := by decide
theorem test_bcd_past_the_end :
    faults (stepOn 0xF033 (machine 0xFFE [(0, 0x9C)])) (.memoryOutOfRange 0x1000 .write) 0x200 = true := by decide
theorem test_store_registers :
    after (stepOn 0xF255 (machine 0x400 [(0, 0x11), (1, 0x22), (2, 0x33), (3, 0x44)]))
      (fun t => t.readMem 0x400 == 0x11#8 && t.readMem 0x401 == 0x22#8 && t.readMem 0x402 == 0x33#8 &&
        t.readMem 0x403 == 0x00#8 && t.iReg == 0x400#16) = true := by decide
theorem test_store_past_the_end :
    faults (stepOn 0xFF55 (machine 0xFF8 [])) (.memoryOutOfRange 0x1000 .write) 0x200 = true := by decide
theorem test_load_registers :
    after (stepOn 0xF265 ((machine 0x300 [(3, 0x99)]).writeBytes 0x300 [0x01, 0x05, 0x06, 0x07]))
      (fun t => t.getV 0 == 0x01#8 && t.getV 1 == 0x05#8 && t.getV 2 == 0x06#8 && t.getV 3 == 0x99#8 &&
        t.iReg == 0x300#16) = true := by decide
theorem test_load_past_the_end :
    faults (stepOn 0xF065 (machine 0x1000 [])) (.memoryOutOfRange 0x1000 .read) 0x200 = true := by decide

/-! ### Display (S6, T6) -/

/-- The machine of T6's rows, with the sprite bytes at 0x300. -/
def sprite (l : List (RegIdx × Byte)) (bytes : List Byte) : State := (machine 0x300 l).writeBytes 0x300 bytes

theorem test_cls :
    after (stepOn 0x00E0 ((machine 0 [(0xF, 0x33)]).drawPixel 3 4 true))
      (fun t => t.display == [] && t.getV 0xF == 0x33#8) = true := by decide
/-- S6: the second draw of the same sprite turns its pixels off and reports the collision. -/
theorem test_drw_collides :
    after (stepOn 0xD011 (((sprite [(0, 3), (1, 4)] [0xC0]).drawPixel 3 4 true).drawPixel 4 4 true))
      (fun t => t.display == [] && t.getV 0xF == 0x01#8) = true := by decide
/-- T6: clipping at the bottom right corner, and x = F under both values of VF_OPERAND_READ. -/
theorem test_drw_clips_and_reads_vf :
    (after (stepOn 0xD012 (sprite [(0, 60), (1, 31)] [0xFF, 0xFF]))
       (fun t => t.display == [(60, 31), (61, 31), (62, 31), (63, 31)] && t.getV 0xF == 0x00#8) &&
     after (stepOn 0xDF11 (sprite [(0xF, 0x10)] [0xC0])) (fun t => t.display == [(0, 0), (1, 0)] && t.getV 0xF == 0x00#8) &&
     after (stepOn 0xDF11 (snapshot (sprite [(0xF, 0x10)] [0xC0]))) (fun t => t.display == [(16, 0), (17, 0)])) = true := by
  decide +kernel
/-- T6: what a test double of the display sees, and the second DRW of the row with x = F: (0, 0) goes off, VF becomes 1,
and the next pixel is (2, 0). -/
theorem test_device_calls :
    deviceCalls (.drw 0 1 1) (sprite [(0, 3), (1, 4)] [0xC0]) =
      [.getPixel 3 4, .drawPixel 3 4 true, .getPixel 4 4, .drawPixel 4 4 true] ∧
    deviceCalls (.drw 0xF 1 1) (((sprite [] [0xC0]).drawPixel 0 0 true).drawPixel 1 0 true) =
      [.getPixel 0 0, .drawPixel 0 0 false, .getPixel 2 0, .drawPixel 2 0 true] := by decide
/-- R185: the size may be queried while pixels are drawn; T6: a sprite byte 0x00 makes no device call. -/
theorem test_size_queries :
    drwObservable 0 1 1 (sprite [(0, 3), (1, 4)] [0x80]) [.getWidth, .getHeight, .getPixel 3 4, .drawPixel 3 4 true] = true ∧
    drwObservable 0 1 1 (sprite [(0, 3), (1, 4)] [0x00]) [.getWidth] = false ∧
    drwObservable 0 1 1 (sprite [(0, 3), (1, 4)] [0x00]) [] = true := by decide

/-! ### Keyboard and timers (S8, T7, T8) -/

theorem test_skp :
    (after (stepOn 0xE49E ((machine 0 [(4, 0x00)]))) (fun t => t.pc == 0x204#16) &&
     after (stepOn 0xE49E ((machine 0 [(4, 0x05)]).setKeyLatch 0x15)) (fun t => t.pc == 0x202#16)) = true := by decide
theorem test_sknp :
    (after (stepOn 0xE4A1 (machine 0 [(4, 0x07)])) (fun t => t.pc == 0x204#16) &&
     after (stepOn 0xE4A1 ((machine 0 [(4, 0x07)]).setKeyLatch 0x07)) (fun t => t.pc == 0x202#16)) = true := by decide
theorem test_ld_vx_dt : after (stepOn 0xF507 (State.reset.setDt 0x3C)) (fun t => t.getV 5 == 0x3C#8) = true := by decide
theorem test_ld_vx_k :
    (after (stepOn 0xF10A (machine 0 [(1, 0x55)])) (fun t => t.pc == 0x200#16 && t.getV 1 == 0x55#8) &&
     after (stepOn 0xF10A (State.reset.setKeyLatch 0xFF)) (fun t => t.pc == 0x202#16 && t.getV 1 == 0xFF#8)) = true := by
  decide
/-- T7, D22: the wait at address 0x000 stays there. -/
theorem test_ld_vx_k_at_zero : after (stepOn 0xF10A (State.reset.setPc 0)) (fun t => t.pc == 0x000#16) = true := by decide
theorem test_ld_dt :
    after (stepOn 0xF115 ((machine 0 [(1, 0x00)]).setDt 0x20)) (fun t => t.dt == 0x00#8 && t.st == 0x00#8) = true := by decide
theorem test_ld_st :
    after (stepOn 0xF218 (machine 0 [(2, 0x05)])) (fun t => t.st == 0x05#8 && t.dt == 0x00#8) = true := by decide
/-- T8. -/
theorem test_tick :
    (tickTimers (State.reset.setSt 2)).st = 0x01#8 ∧ (tickTimers (State.reset.setSt 2)).audio = true ∧
    tickCalls (State.reset.setSt 1) = [.stopSound] ∧ (tickTimers State.reset).dt = 0x00#8 := by decide

/-! ### Reset and load (T9, P5) -/

/-- T9: the font comes back, the program, the key latch stay, and the fault is cleared. -/
theorem test_reset_port :
    let s := halt (.stackUnderflow 0) (((machine 9 [(3, 7)]).writeBytes 0x010 [0x99]).setKeyLatch 5)
    let t := resetPort ((s.writeBytes 0x200 [0x12, 0x00]))
    t.getV 3 = 0x00#8 ∧ t.readMem 0x010 = 0x10#8 ∧ t.readMem 0x200 = 0x12#8 ∧ t.keyLatch = 0x05#8 ∧ t.faultLatch = none := by
  decide +kernel
theorem test_load_rom :
    after (loadRom [0x6A, 0x05] State.reset)
      (fun t => t.readMem 0x200 == 0x6A#8 && t.readMem 0x201 == 0x05#8 && t.pc == 0x200#16) = true := by decide
/-- P5: a machine that holds a fault refuses the next step. -/
theorem test_halted_step_refused :
    step (halt (.unknownInstruction 0x5010) State.reset) = .refused (.halted ⟨.unknownInstruction 0x5010, 0x200⟩) := rfl

/-- R206: boot on devices that hold something ends blank, with no key; R194: a device initialised twice, or not at all,
has no meaning. -/
theorem test_boot :
    let u : Devices := ⟨[(3, 4)], 0x07, true, []⟩
    ((boot ⟨64, 32, [0xF0], .sequential⟩ [.audio, .display, .keyboard] u).map
      (fun t => (t.display, t.keyLatch, t.pc, t.readMem 0))) = some ([], 0x00#8, 0x200#16, 0xF0#8) ∧
    (boot Config.default [.display, .display, .keyboard, .audio] u).isNone = true ∧
    (boot Config.default [.display, .keyboard] u).isNone = true := by decide

/-! ### The obligations' hypotheses can be met -/

theorem witness_EncodeOfDecodeIsIdentity : decodeWord 0xABCD#16 = some (.ldINnn 0xBCD) := by decide

/-- Each clause: a word that decodes, a word that matches its row, and a word that matches none. -/
theorem witness_DecodeFollowsOpcodeMap :
    decodeWord 0x8124#16 = some (.addVxVy 1 2) ∧ (⟨0x8004, 0xF00F⟩ : OpcodeRow) ∈ opcodeMap ∧
    matchesRow 0x8124#16 ⟨0x8004, 0xF00F⟩ = true ∧ ∀ r ∈ opcodeMap, matchesRow 0x8127#16 r = false := by decide

/-- The last pc that fetches, the one that does not, and one above memory. -/
theorem witness_FetchReadsTwoBytesBigEndian :
    (State.reset.setPc 0xFFE).pc.toNat < 0xFFF ∧ (State.reset.setPc 0xFFF).pc.toNat = 0xFFF ∧
    0xFFF < (State.reset.setPc 0x1000).pc.toNat := by decide

/-- The last pc that fetches, with `LD VA, 0x05` there. -/
theorem witness_StepRunsTheDecodedInstruction :
    let s := (State.reset.setPc 0xFFE).writeBytes 0xFFE [0x6A, 0x05]
    s.faultLatch = none ∧ s.pc.toNat < 0xFFF ∧ (Instr.ldVxKk 0xA 0x05).wellFormed = true ∧
    decodeBytes [s.readMem s.pc.toNat, s.readMem (s.pc.toNat + 1)] = .ok (.ldVxKk 0xA 0x05, []) := ⟨rfl, by decide, rfl, rfl⟩

/-- One state for each clause. -/
theorem witness_StepStopsWithoutAnInstruction :
    (halt (.stackUnderflow 0) State.reset).faultLatch = some ⟨.stackUnderflow 0, 0x200⟩ ∧
    fetch (State.reset.setPc 0xFFF) = .outside 0x1000 ∧ fetch (State.reset.setPc 0x1001) = .outside 0x1001 ∧
    State.reset.faultLatch = none ∧ fetch State.reset = .word 0x0000 ∧ decodeWord 0x0000 = none := by decide

/-- A fault of each kind. -/
theorem witness_EveryFaultLatchesAndHalts :
    (∃ f, step State.reset = .fault f ∧ f.kind = .unknownInstruction 0) ∧
    (∃ f, step (State.reset.setPc 0xFFF) = .fault f ∧ f.kind = .memoryOutOfRange 0x1000 .fetch) ∧
    (∃ f, stepOn 0x2300 (State.reset.setSp 16) = .fault f ∧ f.kind = .stackOverflow 16) ∧
    ∃ f, stepOn 0x00EE State.reset = .fault f ∧ f.kind = .stackUnderflow 0 :=
  ⟨⟨_, rfl, rfl⟩, ⟨_, rfl, rfl⟩, ⟨_, rfl, rfl⟩, _, rfl, rfl⟩

/-- Each of the four cases of the conclusion is met. -/
theorem witness_FaultsComeOnlyFromTheirInstructions :
    faults (exec .ret State.reset) (.stackUnderflow 0) 0x200 = true ∧
    faults (exec (.call 0x300) (State.reset.setSp 16)) (.stackOverflow 16) 0x200 = true ∧
    faults (exec (.drw 0 1 2) (machine 0xFFF [])) (.memoryOutOfRange 0x1000 .read) 0x200 = true ∧
    faults (exec (.ldMemVx 0xF) (machine 0xFF1 [])) (.memoryOutOfRange 0x1000 .write) 0x200 = true := by decide

/-- The ends of each clause: sp = 1, 16, 0 and 17. -/
theorem witness_RetPopsOrUnderflows :
    (State.reset.setSp 1).sp.toNat = (0 : Fin 16).val + 1 ∧ (State.reset.setSp 16).sp.toNat = (15 : Fin 16).val + 1 ∧
    State.reset.sp.toNat = 0 ∧ 16 < (State.reset.setSp 17).sp.toNat := by decide

/-- The ends of each clause: sp = 0, 15 and 16. -/
theorem witness_CallPushesOrOverflows :
    State.reset.sp.toNat = (0 : Fin 16).val ∧ (State.reset.setSp 15).sp.toNat = (15 : Fin 16).val ∧
    16 ≤ (State.reset.setSp 16).sp.toNat := by decide

theorem witness_ImmediateSkips : (machine 0 [(3, 0x42)]).getV 3 = 0x42#8 ∧ (machine 0 [(3, 0x41)]).getV 3 ≠ 0x42#8 := by
  decide

theorem witness_RetUndoesCall : (State.reset.setSp 15).sp.toNat < 16 := by decide

theorem witness_SelfJumpIsAFixedPoint : AtSelfJump (State.reset.withFetchWord 16 0x1200) :=
  ⟨rfl, 0x1200#16, 0x200#12, by decide, by decide, by decide⟩

theorem witness_AddWritesCarryThenSum : (1#4 : RegIdx) ≠ vF := by decide

theorem witness_SubWritesGreaterThenDifference :
    let s := machine 0 [(1, 0x09), (2, 0x04)]
    (0x01#8 : Byte) = (if (s.getV 1).toNat > (s.getV 2).toNat then 0x01#8 else 0x00#8) ∧
    (0x00#8 : Byte) = (if (s.getV 2).toNat > (s.getV 2).toNat then 0x01#8 else 0x00#8) := by decide

theorem witness_ShrWritesBitOutThenHalf :
    let s := machine 0 [(2, 0x85), (3, 0x84)]
    (0x01#8 : Byte) = (if (s.getV 2).toNat % 2 = 1 then 0x01#8 else 0x00#8) ∧
    (0x00#8 : Byte) = (if (s.getV 3).toNat % 2 = 1 then 0x01#8 else 0x00#8) := by decide

theorem witness_RndMasksAFreshDraw : (0x7F#8 : Byte).getLsbD 7 = false := by decide

/-- BcdStoresThreeDigits, and the first clause of StoresPastTheEndFault: the last I that fits, the first that does not,
and there a byte below the end. -/
theorem witness_BcdStoresThreeDigits :
    (machine 0xFFD []).iReg.toNat ≤ 0xFFD ∧ 0xFFD < (machine 0xFFE []).iReg.toNat ∧
    (machine 0xFFE []).iReg.toNat + 1 ≤ 0xFFF := by decide

/-- StoreRegistersToMemory and LoadRegistersFromMemory: the last I that fits, for x = F and for x = 0. -/
theorem witness_StoreAndLoadRegisters :
    (machine 0xFF0 []).iReg.toNat + (0xF#4 : RegIdx).toNat ≤ 0xFFF ∧
    (machine 0xFFF []).iReg.toNat + (0#4 : RegIdx).toNat ≤ 0xFFF := by decide

/-- The register clauses of StoresPastTheEndFault and ReadsPastTheEndFault: the first I that does not fit, and there a
register whose byte lies in memory. -/
theorem witness_StoresAndReadsPastTheEnd :
    0xFFF < (machine 0xFF1 []).iReg.toNat + (0xF#4 : RegIdx).toNat ∧
    (machine 0xFF1 []).iReg.toNat + (0xE#4 : RegIdx).toNat ≤ 0xFFF ∧
    0xFFF < (machine 0x1000 []).iReg.toNat + (0#4 : RegIdx).toNat := by decide

/-- DrwCompletes, DrwFollowsThePixelLoop and the sprite clause of ReadsPastTheEndFault: the last sprite that fits, one of no rows anywhere, and the first that does not fit. -/
theorem witness_SpriteInMemory :
    Spec.SpriteInMemory (machine 0xFFF []) 1 ∧ Spec.SpriteInMemory (machine 0xFFFF []) 0 ∧
    ¬Spec.SpriteInMemory (machine 0xFFF []) 2 := by
  unfold Spec.SpriteInMemory
  decide

/-- Both clauses, with I on the word after the instruction, and Fx55 with x = 0. -/
theorem witness_NextFetchSeesTheStore :
    let s := machine 0x202 [(0, 0x6A), (1, 0x42)]
    s.pc.toNat + 3 ≤ 0xFFF ∧ (∃ t, exec (.ldMemVx 1) s = .next t) ∧ (∃ t, exec (.ldMemVx 0) s = .next t) ∧
    ∃ t, exec (.ldBVx 0) s = .next t := ⟨by decide, ⟨_, rfl⟩, ⟨_, rfl⟩, _, rfl⟩

theorem witness_ClsBlanksTheDisplay : decodeWord 0x00E0#16 = some .cls ∧ (1#4 : RegIdx) ≠ 0#4 := by decide

/-- DrwFlipsExactlyTheCoveredPixels and DrwQueriesThenDrawsEachPixel: both ways to have a fixed origin, a covered pixel, an uncovered one. -/
theorem witness_DrwFlipsExactlyTheCoveredPixels :
    let s := sprite [(0, 3), (1, 4)] [0xC0]
    Spec.SpriteInMemory s 1 ∧ Spec.FixedOrigin s 0 1 ∧ Spec.FixedOrigin (snapshot s) 0xF 0xF ∧
    Spec.Covers s 0 1 1 4 4 ∧ ¬Spec.Covers s 0 1 1 64 4 := by
  refine ⟨.inr (by decide), .inl (by decide), .inr rfl, ⟨by decide, by decide, 0, 1, by decide⟩, fun h => ?_⟩
  exact absurd h.1 (by decide)

/-- The Dxyn half of ReadsPastTheEndFault: a fixed origin, a pixel that the one row in memory covers, one that only the
row above 0xFFF would cover. -/
theorem witness_ReadsPastTheEndFault :
    let s := (machine 0xFFF [(0, 3), (1, 4)]).writeBytes 0xFFF [0x80]
    ¬Spec.SpriteInMemory s 2 ∧ Spec.FixedOrigin s 0 1 ∧ Spec.Covers s 0 1 (0x1000 - s.iReg.toNat) 3 4 ∧
    ¬Spec.Covers s 0 1 (0x1000 - s.iReg.toNat) 3 5 := by
  refine ⟨by unfold Spec.SpriteInMemory; decide, .inl (by decide), ⟨by decide, by decide, 0, 0, by decide⟩, ?_⟩
  rintro ⟨-, -, r, c, hr, -, -, hb, -⟩
  have hi : ((machine 0xFFF [(0, 3), (1, 4)]).writeBytes 0xFFF [0x80]).iReg.toNat = 0xFFF := by decide
  have hv : (((machine 0xFFF [(0, 3), (1, 4)]).writeBytes 0xFFF [0x80]).getV 1).toNat = 4 := by decide
  omega

theorem witness_DrawingTwiceRestoresTheBitmap :
    Spec.SpriteInMemory (sprite [(0, 3), (1, 4)] [0xC0]) 1 ∧ (0#4 : RegIdx) ≠ vF ∧ (1#4 : RegIdx) ≠ vF ∧
    ∀ a b, (sprite [(0, 3), (1, 4)] [0xC0]).getPixel a b = false :=
  ⟨.inr (by decide), by decide, by decide, fun _ _ => rfl⟩

/-- S6's two sprites: the second machine has V0 = 10 and the bitmap the first draw left. -/
theorem witness_NonOverlappingSpritesDoNotCollide :
    let s := sprite [(0, 3), (1, 4)] [0xC0]
    let u := ((sprite [(0, 10), (1, 4)] [0xC0]).drawPixel 3 4 true).drawPixel 4 4 true
    (∀ a b, s.getPixel a b = false) ∧ Spec.SpriteInMemory s 1 ∧ Spec.FixedOrigin s 0 1 ∧
    Spec.SpriteInMemory u 1 ∧ Spec.FixedOrigin u 0 1 ∧
    (∀ a b, ¬(Spec.Covers s 0 1 1 a b ∧ Spec.Covers u 0 1 1 a b)) ∧
    after (exec (.drw 0 1 1) s) (fun t => t.display == u.display) = true := by
  refine ⟨fun _ _ => rfl, .inr (by decide), .inl (by decide), .inr (by decide), .inl (by decide), ?_, by decide⟩
  rintro a b ⟨⟨-, -, r, c, hr, hc, ha, -, hb⟩, -, -, r', c', -, -, ha', -, -⟩
  have h0 : ((sprite [(0, 3), (1, 4)] [0xC0]).getV 0).toNat = 3 := by decide
  have h1 : ((((sprite [(0, 10), (1, 4)] [0xC0]).drawPixel 3 4 true).drawPixel 4 4 true).getV 0).toNat = 10 := by decide
  have h2 : ∀ c < 8, ((sprite [(0, 3), (1, 4)] [0xC0]).readMem 0x300).getLsbD (7 - c) = true → c < 2 := by decide
  have hr0 : r = 0 := by simpa using hr
  subst hr0
  have := h2 c hc hb
  omega

theorem witness_KeySkips :
    (State.reset.setKeyLatch 7).keyLatch ≠ State.reset.getV 4 ∧ State.reset.keyLatch = State.reset.getV 4 := by decide

theorem witness_WaitForKey : State.reset.keyLatch = 0x00#8 ∧ (State.reset.setKeyLatch 0xFF).keyLatch ≠ 0x00#8 := by decide

/-- A write of each kind that the clauses of OnlyTheNamedInstructionsWrite speak of. -/
theorem witness_OnlyTheNamedInstructionsWrite :
    after (exec (.call 0x300) State.reset) (fun t => t.sp != State.reset.sp && t.stack != State.reset.stack) = true ∧
    after (exec (.ldINnn 1) State.reset) (fun t => t.iReg != State.reset.iReg) = true ∧
    after (exec (.ldDtVx 1) (machine 0 [(1, 1)])) (fun t => t.dt != 0x00#8) = true ∧
    after (exec (.ldStVx 1) (machine 0 [(1, 1)])) (fun t => t.st != 0x00#8) = true ∧
    after (exec (.ldBVx 0) (machine 0x300 [(0, 0x9C)])) (fun t => t.mem != []) = true ∧
    after (exec (.drw 0 1 1) (sprite [] [0xC0])) (fun t => t.display != []) = true := by decide

theorem witness_OnlyFourInstructionsWriteTheFlag :
    after (exec (.addVxVy 1 2) (machine 0 [(1, 0xFF), (2, 0x02)])) (fun t => t.getV vF != 0x00#8) = true := by decide

theorem witness_NoInstructionReadsTheSoundTimer : ∃ t, exec (.drw 0 1 1) (sprite [] [0xC0]) = .next t := ⟨_, rfl⟩

theorem witness_ResetPortReinitialises : State.reset.cfg.fontFits = true := by decide

/-- The longest ROM that fits and the shortest that does not. -/
theorem witness_LoadRomCopiesFrom0x200 :
    (List.replicate 0xE00 0x00#8 : List Byte).length ≤ 0xE00 ∧ 0xE00 < (List.replicate 0xE01 0x00#8 : List Byte).length ∧
    State.reset.cfg.fontFits = true := by
  rw [List.length_replicate, List.length_replicate]
  decide

theorem witness_SetKeyWritesTheLatch : (0x07#8 : Byte) ≠ 0x00#8 := by decide

theorem witness_PowerOnSatisfiesTheInvariant : Config.wellFormed ⟨1, 1, [], .snapshot⟩ = true := by decide

/-- A state with a program in memory that satisfies the invariant, and steps. -/
theorem witness_StepKeepsTheInvariant :
    StateInv (State.reset.writeBytes 0x200 [0x6A, 0x05]) ∧
    ∃ t, step (State.reset.writeBytes 0x200 [0x6A, 0x05]) = .next t :=
  ⟨⟨by decide, by decide, by decide, by decide, by decide, by decide⟩, _, rfl⟩

/-- A call that faults part-way and one that completes. -/
theorem witness_EveryHostCallKeepsTheInvariant :
    StateInv State.reset ∧ (∃ t, serve .step State.reset = some t) ∧ ∃ t, serve .tickTimers State.reset = some t :=
  ⟨⟨by decide, by decide, by decide, by decide, by decide, by decide⟩, ⟨_, rfl⟩, _, rfl⟩

theorem witness_ReachableStatesAreLegal :
    Config.default.wellFormed = true ∧ Reachable Config.default (tickTimers State.reset) :=
  ⟨by decide, .call .tickTimers .powerOn rfl⟩

/-- Each clause: instructions that call a device, and a trace with and one without size queries. -/
theorem witness_DeviceCallsOfEachInstruction :
    deviceCalls (.drw 0 1 1) (sprite [] [0x80]) ≠ [] ∧
    observable (.drw 0 1 1) (sprite [] [0x80]) [.getWidth, .getPixel 0 0, .drawPixel 0 0 true] ∧
    observable .cls State.reset [.clear] :=
  ⟨by decide, .inr ⟨0, 1, 1, rfl, by decide⟩, .inl rfl⟩

/-- Both clauses: an order of all three devices, and lists that are not one. -/
theorem witness_BootGivesThePowerOnState :
    (⟨[(3, 4)], 0x07, true, []⟩ : Devices).initialized = [] ∧
    [Device.audio, .keyboard, .display].Perm [.display, .keyboard, .audio] ∧
    ¬[Device.display, .keyboard].Perm [.display, .keyboard, .audio] ∧
    ¬[Device.display, .display, .keyboard, .audio].Perm [.display, .keyboard, .audio] := by decide

end Sys2Proof.Tests
end

section
/-!
SUPPORT. The power-on state: its stack and the invariant (10_state.md R35 to R37, R42; 20_memory.md R60).
-/

namespace Sys2Proof

open Sys2Proof.Machine

/-- Every stack entry is 0 at power-on (R37, R201). -/
@[simp] theorem getStack_powerOn (c : Config) (j : Fin 16) : (State.powerOn c).getStack j = 0x0000#16 :=
  Vector.getElem_replicate j.isLt

theorem wellFormed_default : Config.default.wellFormed = true := by decide

/-- The base case of the invariant: of the parameters it needs their ranges alone. -/
theorem stateInv_powerOn {c : Config} (hc : c.wellFormed = true) : StateInv (State.powerOn c) where
  config := hc
  memory := Memory.wf_nil
  display := Bitmap.wf_blank
  stackPointer := show (0x00#8).toNat ≤ 16 by decide
  returnAddresses j := by simp
  programCounter := show (0x0200#16).toNat ≤ 0x1002 by decide

/-- Settles O52: the base case at every parameters in range, the defaults of `State.reset` among them. -/
theorem powerOnSatisfiesTheInvariant : Obligations.PowerOnSatisfiesTheInvariant :=
  ⟨stateInv_powerOn wellFormed_default, fun _ => stateInv_powerOn⟩

end Sys2Proof
end

section
/-!
SUPPORT. What an instruction that completes can do, once: the parts it writes, with memory and bitmap kept as lists, and
where it leaves pc (10_state.md R30 to R44; 40_dispatch.md R104).
-/

namespace Sys2Proof

open Sys2Proof.Machine

variable {w : List Part} {s t u : State}

/-! ### Writes before pc moves -/

/-- `UnchangedBut`, and beyond what reads can tell: memory and bitmap are the same lists where no part of them is
written, and pc has not moved. -/
structure WritesOnly (w : List Part) (s t : State) : Prop extends UnchangedBut w s t where
  memoryList : (∀ a, Part.memory a ∉ w) → t.mem = s.mem
  bitmap : Part.display ∉ w → t.display = s.display
  samePc : t.pc = s.pc

namespace WritesOnly

theorem refl (w : List Part) (s : State) : WritesOnly w s s := ⟨.refl w s, fun _ => rfl, fun _ => rfl, rfl⟩

theorem setV {r : RegIdx} (h : WritesOnly w s u) (hr : Part.v r ∈ w) (b : Byte) : WritesOnly w s (u.setV r b) :=
  ⟨h.toUnchangedBut.trans (unchangedBut_setV r b u hr), h.memoryList, h.bitmap, h.samePc⟩

theorem setI (h : WritesOnly w s u) (hi : Part.index ∈ w) (a : Word) : WritesOnly w s (u.setI a) :=
  ⟨h.toUnchangedBut.trans (unchangedBut_setI a u hi), h.memoryList, h.bitmap, h.samePc⟩

theorem setSp (h : WritesOnly w s u) (hp : Part.sp ∈ w) (b : Byte) : WritesOnly w s (u.setSp b) :=
  ⟨h.toUnchangedBut.trans (unchangedBut_setSp b u hp), h.memoryList, h.bitmap, h.samePc⟩

theorem setStack {j : Fin 16} (h : WritesOnly w s u) (hj : Part.stack j.val ∈ w) (a : Word) :
    WritesOnly w s (u.setStack j a) :=
  ⟨h.toUnchangedBut.trans (unchangedBut_setStack j a u hj), h.memoryList, h.bitmap, h.samePc⟩

theorem setDt (h : WritesOnly w s u) (hd : Part.dt ∈ w) (b : Byte) : WritesOnly w s (u.setDt b) :=
  ⟨h.toUnchangedBut.trans (unchangedBut_setDt b u hd), h.memoryList, h.bitmap, h.samePc⟩

theorem setSt (h : WritesOnly w s u) (hs : Part.st ∈ w) (b : Byte) : WritesOnly w s (u.setSt b) :=
  ⟨h.toUnchangedBut.trans (unchangedBut_setSt b u hs), h.memoryList, h.bitmap, h.samePc⟩

theorem draw (h : WritesOnly w s u) (hd : Part.draws ∈ w) : WritesOnly w s u.draw :=
  ⟨h.toUnchangedBut.trans (unchangedBut_draw u hd), h.memoryList, h.bitmap, h.samePc⟩

theorem setDisplay (h : WritesOnly w s u) (hd : Part.display ∈ w) (d : Bitmap) : WritesOnly w s (u.setDisplay d) :=
  ⟨h.toUnchangedBut.trans (unchangedBut_setDisplay d u hd), h.memoryList, fun hn => absurd hd hn, h.samePc⟩

theorem writeMem {a : Nat} (h : WritesOnly w s u) (ha : Part.memory a ∈ w) (b : Byte) :
    WritesOnly w s (u.writeMem a b) :=
  ⟨h.toUnchangedBut.trans (unchangedBut_writeMem a b u ha), fun hn => absurd ha (hn a), h.bitmap, h.samePc⟩

theorem emit {p : Progress} {e : Effect} (h : WritesOnly w s p.now) (he : e.part ∈ w) :
    WritesOnly w s (p.emit e).now := by
  cases e with
  | memory a b => exact h.writeMem he b
  | register r b => exact h.setV he b
  | pixel x y on => exact h.setDisplay he _

end WritesOnly

/-! ### Where pc goes -/

/-- The values an instruction that began in `s` may leave in pc (R104, R110 to R112, R163). -/
inductive NextPc (s : State) : Word → Prop where
  | stay : NextPc s s.pc
  | next : NextPc s (s.pc + 2#16)
  | skip : NextPc s (s.pc + 4#16)
  | jump (nnn : Addr12) : NextPc s (immAddr nnn)
  | pop (j : Fin 16) : NextPc s (s.getStack j)

/-- A completed instruction: writes to the parts listed, and then a move of pc. -/
def Completes (w : List Part) (s t : State) : Prop := ∃ u a, WritesOnly w s u ∧ NextPc s a ∧ t = u.setPc a

theorem WritesOnly.setPc {a : Word} (h : WritesOnly w s u) (ha : NextPc s a) : Completes w s (u.setPc a) :=
  ⟨u, a, h, ha, rfl⟩

theorem WritesOnly.advance (h : WritesOnly w s u) : Completes w s (advance u) :=
  h.setPc (by rw [h.samePc]; exact .next)

theorem completes_skipWhen (c : Bool) : Completes w s (skipWhen c s) :=
  (WritesOnly.refl w s).setPc (by cases c; exacts [.next, .skip])

namespace Completes

theorem unchangedBut (h : Completes w s t) : UnchangedBut w s t := by
  obtain ⟨u, a, hu, -, rfl⟩ := h
  exact hu.toUnchangedBut.trans (unchangedBut_setPc a u)

theorem memoryList (h : Completes w s t) (hm : ∀ a, Part.memory a ∉ w) : t.mem = s.mem := by
  obtain ⟨u, a, hu, -, rfl⟩ := h
  exact hu.memoryList hm

theorem bitmap (h : Completes w s t) (hd : Part.display ∉ w) : t.display = s.display := by
  obtain ⟨u, a, hu, -, rfl⟩ := h
  exact hu.bitmap hd

theorem nextPc (h : Completes w s t) : NextPc s t.pc := by
  obtain ⟨u, a, -, ha, rfl⟩ := h
  exact ha

end Completes

/-! ### The instructions that do not always complete -/

theorem execRet_completes {j : Fin 16} (h : s.sp.toNat = j.val + 1) :
    execRet s = .next ((s.setSp (s.sp - 0x01#8)).setPc (s.getStack j)) := by
  have h0 : s.sp ≠ 0x00#8 := fun e => by simp [e] at h
  have hj : (s.sp - 0x01#8).toNat = j.val := by bv_omega
  simp only [execRet, if_neg h0, hj, dif_pos j.isLt]

/-- All RET can do when it completes: pop the entry below sp (R110). -/
theorem execRet_next (h : execRet s = .next t) :
    ∃ j : Fin 16, s.sp.toNat = j.val + 1 ∧ t = (s.setSp (s.sp - 0x01#8)).setPc (s.getStack j) := by
  unfold execRet at h
  split at h
  · exact absurd h (raise_ne_next _ _ _)
  · next h0 =>
    dsimp only at h
    split at h
    · next hj =>
      cases h
      exact ⟨⟨_, hj⟩, by dsimp only; bv_omega, rfl⟩
    · cases h

theorem execCall_completes {nnn : Addr12} {j : Fin 16} (h : s.sp.toNat = j.val) :
    execCall nnn s = .next (((s.setStack j (s.pc + 2#16)).setSp (s.sp + 0x01#8)).setPc (immAddr nnn)) := by
  simp only [execCall, h, dif_pos j.isLt]

/-- All CALL can do when it completes: push and jump, with room on the stack (R112). -/
theorem execCall_next {nnn : Addr12} (h : execCall nnn s = .next t) :
    ∃ j : Fin 16, s.sp.toNat = j.val ∧
      t = ((s.setStack j (s.pc + 2#16)).setSp (s.sp + 0x01#8)).setPc (immAddr nnn) := by
  unfold execCall at h
  split at h
  · next hj => cases h; exact ⟨⟨_, hj⟩, rfl, rfl⟩
  · exact absurd h (raise_ne_next _ _ _)

theorem execLdVxK_noKey {x : RegIdx} (h : s.keyLatch = 0x00#8) : execLdVxK x s = .next s := if_pos h

theorem execLdVxK_key {x : RegIdx} (h : s.keyLatch ≠ 0x00#8) :
    execLdVxK x s = .next (advance (s.setV x s.keyLatch)) := if_neg h

/-- A run of byte accesses that completes has written what its accesses write. -/
theorem completes_accessRun {count : Nat} {access : Access} {body : Nat → Progress → Progress} {p : Progress}
    (h : accessRun count access body p s = .next t) (h0 : WritesOnly w s p.now)
    (hbody : ∀ j < count, ∀ q, WritesOnly w s q.now → WritesOnly w s (body j q).now) : Completes w s t := by
  obtain ⟨-, rfl⟩ := accessRun_next h
  exact (foldl_range_induct (P := fun _ q => WritesOnly w s q.now) body count hbody h0).advance

theorem writesOnly_drawRow {x y : RegIdx} {row : Nat} {p : Progress} (hv : Part.v vF ∈ w) (hd : Part.display ∈ w)
    (h : WritesOnly w s p.now) : WritesOnly w s (drawRow x y s row p).now :=
  drawRow_induct (fun q => WritesOnly w s q.now) (fun _ _ _ _ _ hq => hq.emit hd) (fun _ hq => hq.emit hv) h

/-! ### Every instruction -/

/-- The parts an instruction that began in `s` writes when it completes. -/
def written (s : State) : Instr → List Part
  | .cls => [.display]
  | .ret => [.sp]
  | .call _ => [.sp, .stack s.sp.toNat]
  | .jp _ | .seVxKk _ _ | .sneVxKk _ _ | .skp _ | .sknp _ => []
  | .ldVxKk x _ | .addVxKk x _ | .ldVxVy x _ | .andVxVy x _ | .xorVxVy x _ | .ldVxDt x | .ldVxK x => [.v x]
  | .addVxVy x _ | .subVxVy x _ | .shrVx x _ => [.v vF, .v x]
  | .ldINnn _ | .addIVx _ | .ldFVx _ => [.index]
  | .rndVxKk x _ => [.v x, .draws]
  | .drw _ _ _ => [.v vF, .display]
  | .ldDtVx _ => [.dt]
  | .ldStVx _ => [.st]
  | .ldBVx _ => memoryParts s.iReg.toNat 3
  | .ldMemVx x => memoryParts s.iReg.toNat (x.toNat + 1)
  | .ldVxMem x => registersUpTo x

@[simp] theorem mem_memoryParts {p : Part} {base count : Nat} :
    p ∈ memoryParts base count ↔ ∃ j < count, Part.memory (base + j) = p := by simp [memoryParts]

@[simp] theorem mem_registersUpTo {p : Part} {x : RegIdx} :
    p ∈ registersUpTo x ↔ ∃ j < x.toNat + 1, Part.v (BitVec.ofNat 4 j) = p := by simp [registersUpTo]

theorem memory_mem_memoryParts {base count j : Nat} (h : j < count) :
    Part.memory (base + j) ∈ memoryParts base count := mem_memoryParts.mpr ⟨j, h, rfl⟩

theorem register_mem_registersUpTo {x : RegIdx} {j : Nat} (h : j < x.toNat + 1) :
    Part.v (BitVec.ofNat 4 j) ∈ registersUpTo x := mem_registersUpTo.mpr ⟨j, h, rfl⟩

/-- The inversion lemma of `exec`: an instruction that completes has written its own parts alone and moved pc. -/
theorem exec_next {i : Instr} (h : exec i s = .next t) : Completes (written s i) s t := by
  have hs := WritesOnly.refl (written s i) s
  cases i with
  | cls => cases h; exact (hs.setDisplay (.head _) _).advance
  | ret =>
    obtain ⟨j, -, rfl⟩ := execRet_next h
    exact (hs.setSp (.head _) _).setPc (.pop j)
  | jp nnn => cases h; exact hs.setPc (.jump nnn)
  | call nnn =>
    obtain ⟨j, hj, rfl⟩ := execCall_next h
    exact ((hs.setStack (by simp [written, hj]) _).setSp (.head _) _).setPc (.jump nnn)
  | seVxKk | sneVxKk | skp | sknp => cases h; exact completes_skipWhen _
  | ldVxKk | addVxKk | ldVxVy | andVxVy | xorVxVy | ldVxDt => cases h; exact (hs.setV (.head _) _).advance
  | addVxVy | subVxVy | shrVx => cases h; exact ((hs.setV (.head _) _).setV (.tail _ (.head _)) _).advance
  | ldINnn | addIVx | ldFVx => cases h; exact (hs.setI (.head _) _).advance
  | rndVxKk => cases h; exact ((hs.setV (.head _) _).draw (.tail _ (.head _))).advance
  | ldVxK x =>
    by_cases hk : s.keyLatch = 0x00#8
    · obtain rfl := Host.Outcome.next.inj ((execLdVxK_noKey hk).symm.trans h)
      exact hs.setPc .stay
    · obtain rfl := Host.Outcome.next.inj ((execLdVxK_key hk).symm.trans h)
      exact (hs.setV (.head _) _).advance
  | ldDtVx => cases h; exact (hs.setDt (.head _) _).advance
  | ldStVx => cases h; exact (hs.setSt (.head _) _).advance
  | drw =>
    have hv : Part.v vF ∈ [Part.v vF, .display] := .head _
    exact completes_accessRun h (hs.emit hv) fun _ _ _ => writesOnly_drawRow hv (.tail _ (.head _))
  | ldBVx | ldMemVx => exact completes_accessRun h hs fun j hj _ hq => hq.emit (memory_mem_memoryParts hj)
  | ldVxMem => exact completes_accessRun h hs fun j hj _ hq => hq.emit (register_mem_registersUpTo hj)

end Sys2Proof
end

section
/-!
SUPPORT. Who writes what: which instructions list a part among those they write (10_state.md R31 to R44).
-/

namespace Sys2Proof

open Sys2Proof.Machine

variable {s t : State} {i : Instr}

theorem sp_mem_written (h : Part.sp ∈ written s i) : i = .ret ∨ ∃ nnn, i = .call nnn := by
  cases i <;> simp [written] at h ⊢

theorem stack_mem_written {j : Nat} (h : Part.stack j ∈ written s i) : ∃ nnn, i = .call nnn := by
  cases i <;> simp [written] at h ⊢

theorem index_mem_written (h : Part.index ∈ written s i) :
    (∃ nnn, i = .ldINnn nnn) ∨ (∃ x, i = .addIVx x) ∨ ∃ x, i = .ldFVx x := by
  cases i <;> simp [written] at h ⊢

theorem dt_mem_written (h : Part.dt ∈ written s i) : ∃ x, i = .ldDtVx x := by
  cases i <;> simp [written] at h ⊢

theorem st_mem_written (h : Part.st ∈ written s i) : ∃ x, i = .ldStVx x := by
  cases i <;> simp [written] at h ⊢

theorem memory_mem_written {a : Nat} (h : Part.memory a ∈ written s i) :
    (∃ x, i = .ldBVx x) ∨ ∃ x, i = .ldMemVx x := by
  cases i <;> simp [written] at h ⊢

theorem display_mem_written (h : Part.display ∈ written s i) : i = .cls ∨ ∃ x y n, i = .drw x y n := by
  cases i <;> simp [written] at h ⊢

/-- Fx65 loads VF only with x = F. -/
theorem vF_mem_registersUpTo {x : RegIdx} (h : Part.v vF ∈ registersUpTo x) : x = vF := by
  obtain ⟨j, hj, e⟩ := mem_registersUpTo.mp h
  have hF : BitVec.ofNat 4 j = vF := Part.v.inj e
  bv_omega

theorem stack_eq_of_getStack (h : ∀ j, t.getStack j = s.getStack j) : t.stack = s.stack :=
  Vector.ext fun j hj => h ⟨j, hj⟩

/-- Settles O45: a field that changed is the value of a part the instruction lists. -/
theorem onlyTheNamedInstructionsWrite : Obligations.OnlyTheNamedInstructionsWrite := by
  intro i s t h
  have hc := exec_next h
  have hu := hc.unchangedBut
  refine ⟨fun hne => sp_mem_written (not_imp_comm.mp hu.stackPointer hne), fun hne => ?_,
    fun hne => index_mem_written (not_imp_comm.mp hu.index hne),
    fun hne => dt_mem_written (not_imp_comm.mp hu.delayTimer hne),
    fun hne => st_mem_written (not_imp_comm.mp hu.soundTimer hne), fun hne => ?_,
    fun hne => display_mem_written (not_imp_comm.mp hc.bitmap hne),
    hu.keyLatch, hu.audio, hu.faultLatch, hu.config⟩
  · by_contra hn
    exact hne (stack_eq_of_getStack fun j => hu.stack j (mt stack_mem_written hn))
  · by_contra hn
    exact hne (hc.memoryList fun a => mt memory_mem_written hn)

/-- Settles O46: VF changed only if the instruction lists it among the parts it writes. -/
theorem onlyFourInstructionsWriteTheFlag : Obligations.OnlyFourInstructionsWriteTheFlag := by
  intro i s t h hne
  have hw : Part.v vF ∈ written s i := not_imp_comm.mp ((exec_next h).unchangedBut.registers vF) hne
  cases i with
  | addVxVy x y | subVxVy x y | shrVx x y | drw x y n => simp
  | ldVxKk x | addVxKk x | rndVxKk x | ldVxVy x | andVxVy x | xorVxVy x | ldVxDt x | ldVxK x =>
    obtain rfl : vF = x := by simpa [written] using hw
    simp
  | ldVxMem x => simp [vF_mem_registersUpTo hw]
  | _ => simp [written] at hw

end Sys2Proof
end

section
/-!
SUPPORT. The invariant: what every completed instruction and every host call keeps (10_state.md R35 to R37, R42;
20_memory.md R60; 60_exceptions.md R176, R191).
-/

namespace Sys2Proof

open Sys2Proof.Machine

variable {s t : State} {i : Instr} {count : Nat} {access : Access} {body : Nat → Progress → Progress} {p : Progress}

/-! ### Writes inside memory and bitmap -/

/-- The write lies inside memory or inside the bitmap of a machine with parameters `c`. -/
def Machine.Effect.InBounds (c : Config) : Effect → Prop
  | .memory a _ => a < memSize
  | .register _ _ => True
  | .pixel x y _ => x < c.displayWidth ∧ y < c.displayHeight

theorem StateInv.apply {e : Effect} (h : StateInv s) (he : e.InBounds s.cfg) : StateInv (e.apply s) := by
  cases e with
  | memory a b => exact { h with memory := Memory.wf_write he b h.memory }
  | register r b => exact { h with }
  | pixel x y on => exact { h with display := Bitmap.wf_draw he on h.display }

/-- How far a run of accesses from `s` has got keeps the invariant, and so does any subset of its writes. -/
structure SafeProgress (s : State) (p : Progress) : Prop where
  inv : StateInv p.now
  config : p.now.cfg = s.cfg
  inBounds : ∀ e ∈ p.done, e.InBounds s.cfg

theorem safeProgress_start (h : StateInv s) : SafeProgress s (.start s) := ⟨h, rfl, by simp⟩

theorem SafeProgress.emit {e : Effect} (h : SafeProgress s p) (he : e.InBounds s.cfg) : SafeProgress s (p.emit e) where
  inv := h.inv.apply (by rwa [h.config])
  config := by simp [h.config]
  inBounds f hf := by
    rcases List.mem_append.mp hf with hf | hf
    · exact h.inBounds f hf
    · rwa [List.mem_singleton.mp hf]

/-- Every access inside memory keeps the progress safe. -/
def KeepsSafe (s : State) (body : Nat → Progress → Progress) : Prop :=
  ∀ j q, s.iReg.toNat + j < memSize → SafeProgress s q → SafeProgress s (body j q)

theorem keepsSafe_storeDigit (x : RegIdx) : KeepsSafe s (storeDigit x s) := fun _ _ hj hq => hq.emit hj

theorem keepsSafe_storeRegister : KeepsSafe s (storeRegister s) := fun _ _ hj hq => hq.emit hj

theorem keepsSafe_loadRegister : KeepsSafe s (loadRegister s) := fun _ _ _ hq => hq.emit trivial

theorem keepsSafe_drawRow (x y : RegIdx) : KeepsSafe s (drawRow x y s) := fun _ _ _ hq =>
  drawRow_induct (SafeProgress s) (fun _ _ _ _ hab hq => hq.emit (hq.config ▸ hab)) (fun _ hq => hq.emit trivial) hq

theorem safeProgress_drawStart (h : StateInv s) : SafeProgress s (drawStart s) := (safeProgress_start h).emit trivial

/-- A run that completes leaves memory and bitmap in canonical form. -/
theorem accessRun_next_safe (h : accessRun count access body p s = .next t) (hb : KeepsSafe s body)
    (h0 : SafeProgress s p) :
    t.mem.wf t.cfg.fontImage ∧ t.display.wf t.cfg.displayWidth t.cfg.displayHeight := by
  obtain ⟨q, hq, rfl⟩ := accessRun_next_induct h (SafeProgress s) hb h0
  exact ⟨hq.inv.memory, hq.inv.display⟩

theorem StateInv.halt (h : StateInv s) (k : FaultKind) : StateInv (halt k s) := { h with }

/-- A run that faults part-way keeps the invariant, whatever subset of its writes survives (R176). -/
theorem accessRun_fault_safe {f : Fault} (hs : StateInv s) (h : accessRun count access body p s = .fault f)
    (hb : KeepsSafe s body) (h0 : SafeProgress s p) : StateInv f.halted ∧ f.halted.cfg = s.cfg := by
  obtain ⟨_, q, -, -, hq, hf⟩ := accessRun_fault_induct h (SafeProgress s) hb h0
  obtain ⟨hi, hc⟩ : StateInv (partialEffects q.done s) ∧ (partialEffects q.done s).cfg = s.cfg :=
    partialEffects_induct (P := fun u => StateInv u ∧ u.cfg = s.cfg)
      (fun e he u ⟨hu, hc⟩ => ⟨hu.apply (hc ▸ hq.inBounds e he), by simp [hc]⟩)
      (fun u ⟨hu, hc⟩ => ⟨{ hu with }, hc⟩) ⟨hs, rfl⟩
  rw [hf]
  exact ⟨hi.halt _, hc⟩

/-! ### The clauses of the invariant after an instruction -/

/-- pc after an instruction fetched inside memory (R35). -/
theorem NextPc.le {a : Word} (h : NextPc s a) (hs : StateInv s) (hpc : s.pc.toNat + 1 < memSize) :
    a.toNat ≤ 0x1002 := by
  unfold memSize at hpc
  cases h with
  | stay => omega
  | next => bv_omega
  | skip => bv_omega
  | jump nnn => simp only [immAddr, BitVec.truncate_eq_setWidth, BitVec.toNat_setWidth]; omega
  | pop j => exact (hs.returnAddresses j).trans (by decide)

/-- sp stays in 0..16: only RET and CALL move it (R36). -/
theorem exec_sp_le (hs : StateInv s) (h : exec i s = .next t) : t.sp.toNat ≤ 16 := by
  have h16 := hs.stackPointer
  obtain ⟨hsp, -⟩ := onlyTheNamedInstructionsWrite _ _ _ h
  by_cases he : t.sp = s.sp
  · rwa [he]
  · obtain rfl | ⟨nnn, rfl⟩ := hsp he
    · obtain ⟨j, hj, rfl⟩ := execRet_next h
      show (s.sp - 0x01#8).toNat ≤ 16
      bv_omega
    · obtain ⟨j, hj, rfl⟩ := execCall_next h
      show (s.sp + 0x01#8).toNat ≤ 16
      bv_omega

/-- A return address is pc + 2 of a CALL fetched inside memory: only CALL pushes (R37, R112). -/
theorem exec_returnAddresses (hs : StateInv s) (hpc : s.pc.toNat + 1 < memSize) (h : exec i s = .next t) (j : Fin 16) :
    (t.getStack j).toNat ≤ 0x1000 := by
  obtain ⟨-, hstack, -⟩ := onlyTheNamedInstructionsWrite _ _ _ h
  by_cases he : t.stack = s.stack
  · rw [State.getStack, he]
    exact hs.returnAddresses j
  · obtain ⟨nnn, rfl⟩ := hstack he
    obtain ⟨k, -, rfl⟩ := execCall_next h
    simp only [State.setPc_getStack, State.setSp_getStack, State.getStack_setStack]
    unfold memSize at hpc
    split
    · bv_omega
    · exact hs.returnAddresses j

/-- Memory stays in canonical form and in bounds: only Fx33 and Fx55 write it (R60, R62). -/
theorem exec_memory_wf (hs : StateInv s) (h : exec i s = .next t) : t.mem.wf t.cfg.fontImage := by
  obtain ⟨-, -, -, -, -, hmem, -, -, -, -, hcfg⟩ := onlyTheNamedInstructionsWrite _ _ _ h
  by_cases he : t.mem = s.mem
  · rw [he, hcfg]
    exact hs.memory
  · obtain ⟨x, rfl⟩ | ⟨x, rfl⟩ := hmem he
    · exact (accessRun_next_safe h (keepsSafe_storeDigit x) (safeProgress_start hs)).1
    · exact (accessRun_next_safe h keepsSafe_storeRegister (safeProgress_start hs)).1

/-- The bitmap stays in canonical form and in bounds: only 00E0 and Dxyn write it (R42). -/
theorem exec_display_wf (hs : StateInv s) (h : exec i s = .next t) :
    t.display.wf t.cfg.displayWidth t.cfg.displayHeight := by
  obtain ⟨-, -, -, -, -, -, hdisp, -, -, -, hcfg⟩ := onlyTheNamedInstructionsWrite _ _ _ h
  by_cases he : t.display = s.display
  · rw [he, hcfg]
    exact hs.display
  · obtain rfl | ⟨x, y, n, rfl⟩ := hdisp he
    · cases h
      exact Bitmap.wf_blank
    · exact (accessRun_next_safe h (keepsSafe_drawRow x y) (safeProgress_drawStart hs)).2

/-- An instruction fetched inside memory keeps the invariant when it completes. -/
theorem stateInv_exec_next (hs : StateInv s) (hpc : s.pc.toNat + 1 < memSize) (h : exec i s = .next t) :
    StateInv t where
  config := by rw [(exec_next h).unchangedBut.config]; exact hs.config
  memory := exec_memory_wf hs h
  display := exec_display_wf hs h
  stackPointer := exec_sp_le hs h
  returnAddresses := exec_returnAddresses hs hpc h
  programCounter := (exec_next h).nextPc.le hs hpc

/-- Settles O53: the step fetched its instruction inside memory, and each clause is kept by the instructions that can
change what it speaks of. -/
theorem stepKeepsTheInvariant : Obligations.StepKeepsTheInvariant := by
  intro s t hs h
  obtain ⟨-, _, _, hf, -, he⟩ := step_next h
  exact stateInv_exec_next hs (fetch_word hf).1 he

/-! ### Faults -/

theorem stateInv_raise {k : FaultKind} {f : Fault} (hs : StateInv s) (h : raise k s = .fault f) :
    StateInv f.halted ∧ f.halted.cfg = s.cfg := by
  rw [(raise_fault h).2]
  exact ⟨hs.halt k, rfl⟩

/-- An instruction that faults keeps the invariant: before any write, or part-way through its accesses. -/
theorem stateInv_exec_fault {f : Fault} (hs : StateInv s) (h : exec i s = .fault f) :
    StateInv f.halted ∧ f.halted.cfg = s.cfg := by
  cases i with
  | ret =>
    change execRet s = _ at h
    unfold execRet at h
    split at h
    · exact stateInv_raise hs h
    · dsimp only at h
      split at h <;> cases h
  | call nnn =>
    change execCall nnn s = _ at h
    unfold execCall at h
    split at h
    · cases h
    · exact stateInv_raise hs h
  | drw x y n => exact accessRun_fault_safe hs h (keepsSafe_drawRow x y) (safeProgress_drawStart hs)
  | ldBVx x => exact accessRun_fault_safe hs h (keepsSafe_storeDigit x) (safeProgress_start hs)
  | ldMemVx x => exact accessRun_fault_safe hs h keepsSafe_storeRegister (safeProgress_start hs)
  | ldVxMem x => exact accessRun_fault_safe hs h keepsSafe_loadRegister (safeProgress_start hs)
  | ldVxK x =>
    change execLdVxK x s = _ at h
    unfold execLdVxK at h
    split at h <;> cases h
  | _ => cases h

theorem stateInv_step_fault {f : Fault} (hs : StateInv s) (h : step s = .fault f) :
    StateInv f.halted ∧ f.halted.cfg = s.cfg := by
  obtain ⟨-, ⟨_, -, h⟩ | ⟨_, -, -, h⟩ | ⟨_, _, -, -, h⟩⟩ := step_fault h
  · exact stateInv_raise hs h
  · exact stateInv_raise hs h
  · exact stateInv_exec_fault hs h

theorem step_next_cfg (h : step s = .next t) : t.cfg = s.cfg := by
  obtain ⟨-, _, _, -, -, he⟩ := step_next h
  exact (exec_next he).unchangedBut.config

/-! ### The other host calls -/

theorem fontImage_length_le {c : Config} (hc : c.wellFormed = true) : c.fontImage.length ≤ 0x200 := by
  simp only [Config.wellFormed, Config.fontFits, Bool.and_eq_true, decide_eq_true_eq] at hc
  exact hc.2

theorem stateInv_writeBytes {a : Nat} {bytes : List Byte} (hs : StateInv s) (ha : a + bytes.length ≤ memSize) :
    StateInv (s.writeBytes a bytes) := by
  have hwf := State.writeBytes_wf bytes a s ha hs.memory
  rw [State.writeBytes_eq]
  exact { hs with memory := hwf }

theorem resetPort_cfg (s : State) : (resetPort s).cfg = s.cfg := by rw [resetPort_eq]

/-- `reset()` keeps the invariant: the registers as at power-on, the font written inside memory (R201). -/
theorem stateInv_resetPort (hs : StateInv s) : StateInv (resetPort s) := by
  have h0 := stateInv_powerOn hs.config
  have hfont := fontImage_length_le hs.config
  have hblank : StateInv { s with
      v := Vector.replicate 16 0x00#8, iReg := 0x0000#16, pc := 0x0200#16, sp := 0x00#8
      stack := Vector.replicate 16 0x0000#16, dt := 0x00#8, st := 0x00#8, display := Bitmap.blank } :=
    { h0 with memory := hs.memory }
  exact { stateInv_writeBytes hblank (a := 0) (by unfold memSize; omega) with }

/-- Every host call that has a meaning keeps the invariant and the parameters. -/
theorem stateInv_serve {c : HostCall} (hs : StateInv s) (h : serve c s = some t) : StateInv t ∧ t.cfg = s.cfg := by
  cases c with
  | initDevice device => cases h
  | reset => cases h; exact ⟨stateInv_resetPort hs, resetPort_cfg s⟩
  | loadRom bytes =>
    by_cases hb : romOrigin + bytes.length ≤ memSize
    · simp only [serve, answer, loadRom_next hb, Option.some.injEq] at h
      subst h
      exact ⟨stateInv_writeBytes hs hb, by rw [State.writeBytes_eq]; rfl⟩
    · simp [serve, answer, loadRom_refused (not_le.mp hb)] at h
  | step =>
    simp only [serve, answer] at h
    split at h
    · next hn => cases h; exact ⟨stepKeepsTheInvariant _ _ hs hn, step_next_cfg hn⟩
    · next hf => cases h; exact stateInv_step_fault hs hf
    · cases h
  | tickTimers => cases h; exact ⟨{ hs with }, rfl⟩
  | setKey code => cases h; exact ⟨{ hs with }, rfl⟩

/-- The invariant holds of every state a host can reach, with the parameters of power-on: one induction for every
safety statement. -/
theorem stateInv_of_reachable {c : Config} (hc : c.wellFormed = true) (h : Reachable c s) :
    StateInv s ∧ s.cfg = c := by
  induction h with
  | powerOn => exact ⟨stateInv_powerOn hc, rfl⟩
  | call _ _ hserve ih =>
    obtain ⟨ht, hcfg⟩ := stateInv_serve ih.1 hserve
    exact ⟨ht, hcfg.trans ih.2⟩

/-- Settles O55, from the invariant of every reachable state. -/
theorem reachableStatesAreLegal : Obligations.ReachableStatesAreLegal := by
  intro c s hc h
  obtain ⟨hs, hcfg⟩ := stateInv_of_reachable hc h
  exact ⟨hs.programCounter, hs.stackPointer, hcfg⟩

end Sys2Proof
end

section
/-!
SUPPORT. The sound timer: every operation an instruction other than Fx18 is made of commutes with writing ST
(10_state.md R38).
-/

namespace Sys2Proof

open Sys2Proof.Machine

variable {s t : State} {b : Byte}

/-- A run's progress on a machine with another sound timer. -/
def Machine.Progress.setSt (p : Progress) (b : Byte) : Progress := ⟨p.now.setSt b, p.done⟩

theorem emit_setSt (p : Progress) (e : Effect) : (p.setSt b).emit e = (p.emit e).setSt b := by cases e <;> rfl

theorem setV_setSt (r : RegIdx) (c : Byte) : (s.setSt b).setV r c = (s.setV r c).setSt b := rfl

theorem operandState_setSt (now : State) :
    operandState (s.setSt b) (now.setSt b) = (operandState s now).setSt b := by
  simp only [operandState, State.setSt_cfg]
  split <;> rfl

theorem xorPixel_setSt (x y : RegIdx) (row col : Nat) (p : Progress) :
    xorPixel x y (s.setSt b) row col (p.setSt b) = (xorPixel x y s row col p).setSt b := by
  have ho : operandState (s.setSt b) (p.setSt b).now = (operandState s p.now).setSt b := operandState_setSt _
  have hget (px py : Nat) : (p.setSt b).now.getPixel px py = p.now.getPixel px py := rfl
  have hcfg : (p.setSt b).now.cfg = p.now.cfg := rfl
  simp only [xorPixel, ho, hget, State.setSt_getV, State.getWidth_eq, State.getHeight_eq, hcfg, emit_setSt,
    apply_ite (Progress.setSt · b)]

theorem drawRow_setSt (x y : RegIdx) (row : Nat) (p : Progress) :
    drawRow x y (s.setSt b) row (p.setSt b) = (drawRow x y s row p).setSt b :=
  List.foldl_hom (Progress.setSt · b) fun q col => by
    simp only [drawColumn, xorPixel_setSt, apply_ite (Progress.setSt · b)]
    rfl

theorem storeDigit_setSt (x : RegIdx) (j : Nat) (p : Progress) :
    storeDigit x (s.setSt b) j (p.setSt b) = (storeDigit x s j p).setSt b := emit_setSt _ _

theorem storeRegister_setSt (j : Nat) (p : Progress) :
    storeRegister (s.setSt b) j (p.setSt b) = (storeRegister s j p).setSt b := emit_setSt _ _

theorem loadRegister_setSt (j : Nat) (p : Progress) :
    loadRegister (s.setSt b) j (p.setSt b) = (loadRegister s j p).setSt b := emit_setSt _ _

/-- A run of accesses that commute with writing ST commutes with it when it completes. -/
theorem accessRun_setSt {count : Nat} {access : Access} {body body' : Nat → Progress → Progress} {p : Progress}
    (hbody : ∀ q j, body' j (q.setSt b) = (body j q).setSt b) (h : accessRun count access body p s = .next t) :
    accessRun count access body' (p.setSt b) (s.setSt b) = .next (t.setSt b) := by
  obtain ⟨hc, rfl⟩ := accessRun_next h
  rw [accessRun_completes (s := s.setSt b) hc, List.foldl_hom (Progress.setSt · b) hbody]
  rfl

/-- Every instruction but Fx18 commutes with writing ST when it completes. -/
theorem exec_setSt {i : Instr} (hi : ∀ x, i ≠ .ldStVx x) (h : exec i s = .next t) :
    exec i (s.setSt b) = .next (t.setSt b) := by
  cases i with
  | ldStVx x => exact absurd rfl (hi x)
  | ret =>
    obtain ⟨j, hj, rfl⟩ := execRet_next h
    exact execRet_completes (s := s.setSt b) hj
  | call nnn =>
    obtain ⟨j, hj, rfl⟩ := execCall_next h
    exact execCall_completes (s := s.setSt b) hj
  | subVxVy | shrVx =>
    cases h
    simp only [exec, execSubVxVy, execShrVx, setV_setSt, operandState_setSt, State.setSt_getV]
    rfl
  | ldVxK x =>
    by_cases hk : s.keyLatch = 0x00#8
    · obtain rfl := Host.Outcome.next.inj ((execLdVxK_noKey hk).symm.trans h)
      exact execLdVxK_noKey (s := s.setSt b) hk
    · obtain rfl := Host.Outcome.next.inj ((execLdVxK_key hk).symm.trans h)
      exact execLdVxK_key (s := s.setSt b) hk
  | drw x y n => exact accessRun_setSt (p := drawStart s) (fun q j => drawRow_setSt x y j q) h
  | ldBVx x => exact accessRun_setSt (p := .start s) (fun q j => storeDigit_setSt x j q) h
  | ldMemVx x => exact accessRun_setSt (p := .start s) (fun q j => storeRegister_setSt j q) h
  | ldVxMem x => exact accessRun_setSt (p := .start s) (fun q j => loadRegister_setSt j q) h
  | _ => cases h; rfl

/-- Settles O47: an instruction is Fx18 or commutes with writing ST. -/
theorem noInstructionReadsTheSoundTimer : Obligations.NoInstructionReadsTheSoundTimer := by
  intro i s t b h
  by_cases hi : ∃ x, i = .ldStVx x
  · exact .inl hi
  · exact .inr (exec_setSt (not_exists.mp hi) h)

end Sys2Proof
end

section
/-!
SUPPORT. The state after power-on and reset, with the spec's default parameters (70_reset_and_hazards.md R200, R201,
R207).
-/

namespace Sys2Proof

open Sys2Proof.Machine

@[simp] theorem getV_powerOn (c : Config) (r : RegIdx) : (State.powerOn c).getV r = 0x00#8 :=
  Vector.getElem_replicate r.isLt

/-- Settles O48: every field as `State.powerOn` has it, memory read through the font of the defaults. -/
theorem resetStateIsThePowerOnState : Obligations.ResetStateIsThePowerOnState :=
  ⟨rfl, rfl, rfl, fun _ _ => rfl, getV_powerOn _, rfl, rfl, getStack_powerOn _, rfl, rfl, fun _ => rfl, rfl⟩

end Sys2Proof
end

section
/-!
SUPPORT. Memory after a run of byte stores at I, I + 1, …, and the fetch that follows it (20_memory.md R70, R73;
70_reset_and_hazards.md R209; 43_index_memory.md R143, R144).
-/

namespace Sys2Proof

open Sys2Proof.Machine

variable {s t : State} {count : Nat}

/-- The fetch at a pc with both its bytes in memory (R101). -/
theorem fetch_eq_word (h : s.pc.toNat + 1 < memSize) :
    fetch s = .word (wordOfBytes (s.readMem s.pc.toNat) (s.readMem (s.pc.toNat + 1))) := by
  rw [fetch, if_neg (by omega), if_neg (by omega)]

/-- Access `j` of an instruction that stores `bytes j` at I + j: the shape of Fx33 and Fx55. -/
def storeByte (bytes : Nat → Byte) (s : State) (j : Nat) (p : Progress) : Progress :=
  p.emit (.memory (effectiveAddress s j) (bytes j))

theorem storeDigit_eq_storeByte (x : RegIdx) (s : State) : storeDigit x s = storeByte (bcdDigit (s.getV x)) s := rfl

theorem storeRegister_eq_storeByte (s : State) :
    storeRegister s = storeByte (fun j => s.getV (BitVec.ofNat 4 j)) s := rfl

/-- The byte at `a` once the first `count` bytes are stored from I on: the one stored there, or the old one. -/
def byteAfterStores (bytes : Nat → Byte) (count : Nat) (s : State) (a : Nat) : Byte :=
  if s.iReg.toNat ≤ a ∧ a < s.iReg.toNat + count then bytes (a - s.iReg.toNat) else s.readMem a

@[simp] theorem byteAfterStores_zero (bytes : Nat → Byte) (s : State) (a : Nat) :
    byteAfterStores bytes 0 s a = s.readMem a := if_neg (by omega)

/-- One more store sets the next byte and keeps the others. -/
theorem byteAfterStores_succ (bytes : Nat → Byte) (j : Nat) (s : State) (a : Nat) :
    byteAfterStores bytes (j + 1) s a =
      if a = effectiveAddress s j then bytes j else byteAfterStores bytes j s a := by
  unfold byteAfterStores effectiveAddress
  by_cases ha : a = s.iReg.toNat + j
  · rw [if_pos ha, if_pos (by omega), ha, Nat.add_sub_cancel_left]
  · rw [if_neg ha]
    exact if_congr (by omega) rfl rfl

theorem afterStore_eq (s : State) (x : RegIdx) (a : Nat) :
    Spec.afterStore s x a = byteAfterStores (fun j => s.getV (BitVec.ofNat 4 j)) (x.toNat + 1) s a :=
  if_congr (by omega) rfl rfl

theorem afterBcd_eq (s : State) (x : RegIdx) (a : Nat) :
    Spec.afterBcd s x a = byteAfterStores (bcdDigit (s.getV x)) 3 s a := by
  by_cases h0 : a = s.iReg.toNat
  · simp [Spec.afterBcd, byteAfterStores, bcdDigit, h0]
  by_cases h1 : a = s.iReg.toNat + 1
  · simp [Spec.afterBcd, byteAfterStores, bcdDigit, h1]
  by_cases h2 : a = s.iReg.toNat + 2
  · simp [Spec.afterBcd, byteAfterStores, bcdDigit, h2]
  · have hout : ¬(s.iReg.toNat ≤ a ∧ a < s.iReg.toNat + 3) := by omega
    simp only [Spec.afterBcd, byteAfterStores, if_neg h0, if_neg h1, if_neg h2, if_neg hout]

/-- Part-way through the run, with `j` bytes stored: memory holds them, and pc has not moved. -/
structure StoredSoFar (bytes : Nat → Byte) (s : State) (j : Nat) (q : Progress) : Prop where
  samePc : q.now.pc = s.pc
  memory (a : Nat) : q.now.readMem a = byteAfterStores bytes j s a

theorem storedSoFar_start (bytes : Nat → Byte) (s : State) : StoredSoFar bytes s 0 (.start s) :=
  ⟨rfl, fun a => (byteAfterStores_zero bytes s a).symm⟩

theorem StoredSoFar.storeByte {bytes : Nat → Byte} {j : Nat} {q : Progress} (h : StoredSoFar bytes s j q) :
    StoredSoFar bytes s (j + 1) (storeByte bytes s j q) where
  samePc := h.samePc
  memory a := by
    rw [byteAfterStores_succ, ← h.memory a]
    exact State.readMem_writeMem q.now _ a _

/-- A completed run of stores: memory holds the stored bytes, and pc is past the instruction (R66, R104). -/
theorem storeRun_next {bytes : Nat → Byte}
    (h : accessRun count .write (storeByte bytes s) (.start s) s = .next t) :
    t.pc = s.pc + 2#16 ∧ ∀ a, t.readMem a = byteAfterStores bytes count s a := by
  obtain ⟨-, rfl⟩ := accessRun_next h
  have hstep : ∀ j < count, ∀ q, StoredSoFar bytes s j q → StoredSoFar bytes s (j + 1) (storeByte bytes s j q) :=
    fun _ _ _ => StoredSoFar.storeByte
  have hend := foldl_range_induct (storeByte bytes s) count hstep (storedSoFar_start bytes s)
  exact ⟨by rw [advance_pc, hend.samePc], hend.memory⟩

/-- The fetch behind a completed run of stores reads memory as the stores left it (R73). -/
theorem fetch_after_storeRun {bytes : Nat → Byte} (hpc : s.pc.toNat + 3 ≤ 0xFFF)
    (h : accessRun count .write (storeByte bytes s) (.start s) s = .next t) :
    fetch t = .word (wordOfBytes (byteAfterStores bytes count s (s.pc.toNat + 2))
      (byteAfterStores bytes count s (s.pc.toNat + 3))) := by
  obtain ⟨htpc, hmem⟩ := storeRun_next h
  have ht : t.pc.toNat = s.pc.toNat + 2 := by rw [htpc]; bv_omega
  rw [fetch_eq_word (by unfold memSize; omega), hmem, hmem, ht]

/-- Settles O32: Fx55 and Fx33 are runs of stores, and the fetch behind such a run reads what they left. -/
theorem nextFetchSeesTheStore : Obligations.NextFetchSeesTheStore := by
  intro x s t hpc
  rw [afterStore_eq, afterStore_eq, afterBcd_eq, afterBcd_eq]
  refine ⟨fun h => ?_, fun h => ?_⟩
  · exact fetch_after_storeRun hpc (storeRegister_eq_storeByte s ▸ h)
  · exact fetch_after_storeRun hpc (storeDigit_eq_storeByte x s ▸ h)

end Sys2Proof
end

section
/-!
SUPPORT. The encoder and the decoder: a word is its fields packed again, each decodes what the other encodes, and both
follow the opcode map (30_encoding.md R81 to R87).
-/

namespace Sys2Proof

open Sys2Proof.Laws

variable {w v : Word} {i : Instr} {r q : OpcodeRow} {f n : BitVec 4} {kk : Byte}

/-! ### A word is its fields, packed again -/

theorem packNnn_of_fields (hf : fieldFirst w = f) : packNnn f (fieldNnn w) = w := by
  apply BitVec.eq_of_toNat_eq
  rw [packNnn_toNat, ← hf, fieldFirst_toNat, fieldNnn_toNat]; omega

theorem packXKk_of_fields (hf : fieldFirst w = f) (hkk : fieldKk w = kk) : packXKk f (fieldX w) kk = w := by
  apply BitVec.eq_of_toNat_eq
  rw [packXKk_toNat, ← hf, ← hkk, fieldFirst_toNat, fieldX_toNat, fieldKk_toNat]; omega

theorem packXYN_of_fields (hf : fieldFirst w = f) (hn : fieldN w = n) : packXYN f (fieldX w) (fieldY w) n = w := by
  apply BitVec.eq_of_toNat_eq
  rw [packXYN_toNat, ← hf, ← hn, fieldFirst_toNat, fieldX_toNat, fieldY_toNat, fieldN_toNat]; omega

/-! ### Decoding an encoding -/

/-- The dispatch reads the constructor off the fixed fields of the packed word, and the operands off the others. -/
theorem decodeWord_encode (i : Instr) : decodeWord (encode i) = some i := by
  cases i with
  | cls | ret => rfl
  | jp nnn | call nnn | ldINnn nnn => simp [encode, decodeWord]
  | seVxKk x kk | sneVxKk x kk | ldVxKk x kk | addVxKk x kk | rndVxKk x kk => simp [encode, decodeWord]
  | drw x y n => simp [encode, decodeWord]
  | ldVxVy x y | andVxVy x y | xorVxVy x y | addVxVy x y | subVxVy x y | shrVx x y =>
    simp [encode, decodeWord, decodeFamily8]
  | skp x | sknp x => simp [encode, decodeWord, decodeFamilyE]
  | ldVxDt x | ldVxK x | ldDtVx x | ldStVx x | addIVx x | ldFVx x | ldBVx x | ldMemVx x | ldVxMem x =>
    simp [encode, decodeWord, decodeFamilyF]

/-- Settles O1, constructor by constructor through the fields of a packed word. -/
theorem decodeOfEncodeIsIdentity : Obligations.DecodeOfEncodeIsIdentity := decodeWord_encode

/-! ### Encoding what was decoded, family by family -/

theorem encode_of_decodeFamily0 (h : decodeFamily0 w = some i) : encode i = w := by
  unfold decodeFamily0 at h
  split_ifs at h with hcls hret
  · cases h; exact hcls.symm
  · cases h; exact hret.symm

theorem encode_of_decodeFamily8 (hf : fieldFirst w = 0x8#4) (h : decodeFamily8 w = some i) : encode i = w := by
  unfold decodeFamily8 at h
  split_ifs at h <;> (cases h; exact packXYN_of_fields hf ‹_›)

theorem encode_of_decodeFamilyE (hf : fieldFirst w = 0xE#4) (h : decodeFamilyE w = some i) : encode i = w := by
  unfold decodeFamilyE at h
  split_ifs at h <;> (cases h; exact packXKk_of_fields hf ‹_›)

theorem encode_of_decodeFamilyF (hf : fieldFirst w = 0xF#4) (h : decodeFamilyF w = some i) : encode i = w := by
  unfold decodeFamilyF at h
  split_ifs at h <;> (cases h; exact packXKk_of_fields hf ‹_›)

/-- The families that hold one row each, and the four that select further. -/
theorem encode_of_decodeWord (h : decodeWord w = some i) : encode i = w := by
  unfold decodeWord at h
  obtain ⟨-, h⟩ | ⟨-, h⟩ := ite_eq_iff.mp h
  · exact encode_of_decodeFamily0 h
  obtain ⟨hf, h⟩ | ⟨-, h⟩ := ite_eq_iff.mp h
  · cases h; exact packNnn_of_fields hf
  obtain ⟨hf, h⟩ | ⟨-, h⟩ := ite_eq_iff.mp h
  · cases h; exact packNnn_of_fields hf
  obtain ⟨hf, h⟩ | ⟨-, h⟩ := ite_eq_iff.mp h
  · cases h; exact packXKk_of_fields hf rfl
  obtain ⟨hf, h⟩ | ⟨-, h⟩ := ite_eq_iff.mp h
  · cases h; exact packXKk_of_fields hf rfl
  obtain ⟨hf, h⟩ | ⟨-, h⟩ := ite_eq_iff.mp h
  · cases h; exact packXKk_of_fields hf rfl
  obtain ⟨hf, h⟩ | ⟨-, h⟩ := ite_eq_iff.mp h
  · cases h; exact packXKk_of_fields hf rfl
  obtain ⟨hf, h⟩ | ⟨-, h⟩ := ite_eq_iff.mp h
  · exact encode_of_decodeFamily8 hf h
  obtain ⟨hf, h⟩ | ⟨-, h⟩ := ite_eq_iff.mp h
  · cases h; exact packNnn_of_fields hf
  obtain ⟨hf, h⟩ | ⟨-, h⟩ := ite_eq_iff.mp h
  · cases h; exact packXKk_of_fields hf rfl
  obtain ⟨hf, h⟩ | ⟨-, h⟩ := ite_eq_iff.mp h
  · cases h; exact packXYN_of_fields hf rfl
  obtain ⟨hf, h⟩ | ⟨-, h⟩ := ite_eq_iff.mp h
  · exact encode_of_decodeFamilyE hf h
  obtain ⟨hf, h⟩ | ⟨-, h⟩ := ite_eq_iff.mp h
  · exact encode_of_decodeFamilyF hf h
  · cases h

/-- Settles O2, family by family: a word is its fields packed again. -/
theorem encodeOfDecodeIsIdentity : Obligations.EncodeOfDecodeIsIdentity := fun _ _ => encode_of_decodeWord

/-! ### The opcode map -/

theorem matchesRow_iff : matchesRow w r = true ↔ w &&& r.mask = r.pattern := beq_iff_eq

/-- The word of an instruction matches the instruction's own row, constructor by constructor. -/
theorem matchesRow_encode : ∀ i, matchesRow (encode i) (rowOf i) = true
  | .cls => EncodesToRow.cls
  | .ret => EncodesToRow.ret
  | .jp nnn => EncodesToRow.jp nnn
  | .call nnn => EncodesToRow.call nnn
  | .seVxKk x kk => EncodesToRow.seVxKk x kk
  | .sneVxKk x kk => EncodesToRow.sneVxKk x kk
  | .ldVxKk x kk => EncodesToRow.ldVxKk x kk
  | .addVxKk x kk => EncodesToRow.addVxKk x kk
  | .ldVxVy x y => EncodesToRow.ldVxVy x y
  | .andVxVy x y => EncodesToRow.andVxVy x y
  | .xorVxVy x y => EncodesToRow.xorVxVy x y
  | .addVxVy x y => EncodesToRow.addVxVy x y
  | .subVxVy x y => EncodesToRow.subVxVy x y
  | .shrVx x y => EncodesToRow.shrVx x y
  | .ldINnn nnn => EncodesToRow.ldINnn nnn
  | .rndVxKk x kk => EncodesToRow.rndVxKk x kk
  | .drw x y n => EncodesToRow.drw x y n
  | .skp x => EncodesToRow.skp x
  | .sknp x => EncodesToRow.sknp x
  | .ldVxDt x => EncodesToRow.ldVxDt x
  | .ldVxK x => EncodesToRow.ldVxK x
  | .ldDtVx x => EncodesToRow.ldDtVx x
  | .ldStVx x => EncodesToRow.ldStVx x
  | .addIVx x => EncodesToRow.addIVx x
  | .ldFVx x => EncodesToRow.ldFVx x
  | .ldBVx x => EncodesToRow.ldBVx x
  | .ldMemVx x => EncodesToRow.ldMemVx x
  | .ldVxMem x => EncodesToRow.ldVxMem x

theorem matchesRow_of_decodeWord (h : decodeWord w = some i) : matchesRow w (rowOf i) = true :=
  encode_of_decodeWord h ▸ matchesRow_encode i

theorem rowOf_mem_opcodeMap (i : Instr) : rowOf i ∈ opcodeMap := by
  have hlt : rowNumber i < opcodeMap.length := by cases i <;> simp [rowNumber, opcodeMap]
  rw [rowOf, List.getD_eq_getElem _ _ hlt]
  exact List.getElem_mem hlt

/-- No word matches two rows: two patterns that agree under both masks are the same row's. -/
theorem row_unique (hr : r ∈ opcodeMap) (hq : q ∈ opcodeMap) (hwr : matchesRow w r = true)
    (hwq : matchesRow w q = true) : r = q := by
  have hdisjoint : ∀ r ∈ opcodeMap, ∀ q ∈ opcodeMap, r.pattern &&& q.mask = q.pattern &&& r.mask → r = q := by decide
  apply hdisjoint r hr q hq
  rw [← matchesRow_iff.mp hwr, ← matchesRow_iff.mp hwq, BitVec.and_assoc, BitVec.and_assoc, BitVec.and_comm r.mask]

/-! ### A word that matches a row decodes -/

theorem decodeFamily8_isSome_congr (hn : fieldN w = fieldN v) :
    (decodeFamily8 w).isSome = (decodeFamily8 v).isSome := by
  simp [decodeFamily8, hn, apply_ite Option.isSome]

theorem decodeFamilyE_isSome_congr (hkk : fieldKk w = fieldKk v) :
    (decodeFamilyE w).isSome = (decodeFamilyE v).isSome := by
  simp [decodeFamilyE, hkk, apply_ite Option.isSome]

theorem decodeFamilyF_isSome_congr (hkk : fieldKk w = fieldKk v) :
    (decodeFamilyF w).isSome = (decodeFamilyF v).isSome := by
  simp [decodeFamilyF, hkk, apply_ite Option.isSome]

/-- The dispatch selects on the family, then in family 0 on the whole word, in 8 on n, and in E and F on kk (R84). -/
theorem decodeWord_isSome_congr (hfirst : fieldFirst w = fieldFirst v) (h0 : fieldFirst v = 0x0#4 → w = v)
    (h8 : fieldFirst v = 0x8#4 → fieldN w = fieldN v)
    (hEF : fieldFirst v = 0xE#4 ∨ fieldFirst v = 0xF#4 → fieldKk w = fieldKk v) :
    (decodeWord w).isSome = (decodeWord v).isSome := by
  by_cases hv0 : fieldFirst v = 0x0#4
  · rw [h0 hv0]
  by_cases hv8 : fieldFirst v = 0x8#4
  · simpa [decodeWord, hfirst, hv8] using decodeFamily8_isSome_congr (h8 hv8)
  by_cases hvE : fieldFirst v = 0xE#4
  · simpa [decodeWord, hfirst, hvE] using decodeFamilyE_isSome_congr (hEF (.inl hvE))
  by_cases hvF : fieldFirst v = 0xF#4
  · simpa [decodeWord, hfirst, hvF] using decodeFamilyF_isSome_congr (hEF (.inr hvF))
  · simp [decodeWord, hfirst, hv0, hv8, hvE, hvF, apply_ite Option.isSome]

/-- A field that a mask keeps whole is the pattern's. -/
theorem extractLsb'_of_matchesRow {start k : Nat} (h : matchesRow w r = true)
    (hm : r.mask.extractLsb' start k = BitVec.allOnes k) : w.extractLsb' start k = r.pattern.extractLsb' start k := by
  rw [← matchesRow_iff.mp h, BitVec.extractLsb'_and, hm, BitVec.and_allOnes]

/-- The masks keep what the dispatch selects on, so a word that matches a row decodes as the row's pattern does. -/
theorem decodeWord_isSome_of_matchesRow (hr : r ∈ opcodeMap) (h : matchesRow w r = true) :
    (decodeWord w).isSome = true := by
  have hpattern : ∀ r ∈ opcodeMap, (decodeWord r.pattern).isSome = true := by decide
  have hfirst : ∀ r ∈ opcodeMap, fieldFirst r.mask = BitVec.allOnes 4 := by decide
  have h0 : ∀ r ∈ opcodeMap, fieldFirst r.pattern = 0x0#4 → r.mask = BitVec.allOnes 16 := by decide
  have h8 : ∀ r ∈ opcodeMap, fieldFirst r.pattern = 0x8#4 → fieldN r.mask = BitVec.allOnes 4 := by decide
  have hEF : ∀ r ∈ opcodeMap, fieldFirst r.pattern = 0xE#4 ∨ fieldFirst r.pattern = 0xF#4 →
      fieldKk r.mask = BitVec.allOnes 8 := by decide
  rw [← hpattern r hr]
  refine decodeWord_isSome_congr ?_ (fun hp => ?_) (fun hp => ?_) fun hp => ?_
  · exact extractLsb'_of_matchesRow h (hfirst r hr)
  · rw [← matchesRow_iff.mp h, h0 r hr hp, BitVec.and_allOnes]
  · exact extractLsb'_of_matchesRow h (h8 r hr hp)
  · exact extractLsb'_of_matchesRow h (hEF r hr hp)

theorem decodeWord_eq_none_iff : decodeWord w = none ↔ ∀ r ∈ opcodeMap, matchesRow w r = false := by
  constructor
  · intro hnone r hr
    exact Bool.eq_false_iff.mpr fun hmatch => by simpa [hnone] using decodeWord_isSome_of_matchesRow hr hmatch
  · intro hno
    refine Option.eq_none_iff_forall_ne_some.mpr fun i hi => ?_
    exact Bool.eq_false_iff.mp (hno _ (rowOf_mem_opcodeMap i)) (matchesRow_of_decodeWord hi)

/-- Settles O3: the row of what was decoded, the words that decode to nothing, and the rows' disjointness. -/
theorem decodeFollowsOpcodeMap : Obligations.DecodeFollowsOpcodeMap := fun _ =>
  ⟨fun _ => matchesRow_of_decodeWord, decodeWord_eq_none_iff, fun _ hr _ hq => row_unique hr hq⟩

/-! ### The fields as the rule writes them, and words written out -/

/-- A field of `k` bits from bit `start` on, as the rule's shift and mask (R83). -/
theorem extractLsb'_toNat_eq_and (w : Word) (start k : Nat) :
    (w.extractLsb' start k).toNat = w.toNat >>> start &&& 2 ^ k - 1 := by
  rw [BitVec.extractLsb'_toNat, Nat.and_two_pow_sub_one_eq_mod]

/-- Settles O4: the five masked fields by the shift and mask of a field, and the first, which needs no mask. -/
theorem fieldsAreShiftsAndMasks : Obligations.FieldsAreShiftsAndMasks := fun w =>
  ⟨by rw [fieldFirst_toNat, Nat.shiftRight_eq_div_pow], extractLsb'_toNat_eq_and w 0 12, extractLsb'_toNat_eq_and w 0 8,
    extractLsb'_toNat_eq_and w 8 4, extractLsb'_toNat_eq_and w 4 4, extractLsb'_toNat_eq_and w 0 4⟩

/-- Settles O5, by running the decoder on each word. -/
theorem writtenOutWordsDecode : Obligations.WrittenOutWordsDecode := by
  unfold Obligations.WrittenOutWordsDecode
  decide

end Sys2Proof
end

section
/-!
SUPPORT. The fetch by the place of pc, and one equation per branch of the step: halted, fetch outside memory, unknown
word, instruction run (40_dispatch.md R100, R101, R103, R105; 60_exceptions.md R175).
-/

namespace Sys2Proof

open Sys2Proof.Machine

variable {s : State} {i : Instr} {w : Word}

/-! ### The fetch at the end of memory and above it -/

theorem fetch_eq_outside_pc (h : memSize ≤ s.pc.toNat) : fetch s = .outside s.pc.toNat := if_pos h

theorem fetch_eq_outside_next (h : s.pc.toNat + 1 = memSize) : fetch s = .outside memSize := by
  rw [fetch, if_neg (by omega), if_pos h.ge, h]

/-- Settles O6: at each place of pc the fetch takes another of its three branches. -/
theorem fetchReadsTwoBytesBigEndian : Obligations.FetchReadsTwoBytesBigEndian := fun _ =>
  ⟨fun h => ⟨_, fetch_eq_word (Nat.succ_lt_succ h), wordOfBytes_toNat _ _⟩,
    fun h => fetch_eq_outside_next (congrArg Nat.succ h), fetch_eq_outside_pc⟩

/-! ### The step, branch by branch -/

/-- A halted machine refuses to step (R105). -/
theorem step_of_halted {r : FaultRecord} (h : s.faultLatch = some r) : step s = .refused (.halted r) := by
  rw [step, stepPort, h]

theorem step_of_not_halted (h : s.faultLatch = none) : step s = cycle s := by rw [step, stepPort, h]

/-- The fetch raises its own fault (R101, R175). -/
theorem step_of_fetch_outside {addr : Nat} (hl : s.faultLatch = none) (hf : fetch s = .outside addr) :
    step s = raise (.memoryOutOfRange addr .fetch) s := by
  rw [step_of_not_halted hl, cycle, hf]

/-- The dispatch raises the fault of a word that matches no row (R103, R175). -/
theorem step_of_decodeWord_none (hl : s.faultLatch = none) (hf : fetch s = .word w) (hd : decodeWord w = none) :
    step s = raise (.unknownInstruction w) s := by
  simp only [step_of_not_halted hl, cycle, hf, hd]

theorem step_of_decodeWord_some (hl : s.faultLatch = none) (hf : fetch s = .word w) (hd : decodeWord w = some i) :
    step s = exec i s := by
  simp only [step_of_not_halted hl, cycle, hf, hd]

/-- Two bytes decode as their word does, and leave none behind (R80). -/
theorem decodeBytes_pair_eq_ok {hi lo : Byte} (h : decodeBytes [hi, lo] = .ok (i, [])) :
    decodeWord (wordOfBytes hi lo) = some i := by
  rw [decodeBytes] at h
  split at h
  · next hd => cases h; exact hd
  · cases h

/-- Settles O7: the two bytes that decode to the instruction are the word the step fetches. -/
theorem stepRunsTheDecodedInstruction : Obligations.StepRunsTheDecodedInstruction := by
  intro s i hl hpc _ hbytes
  have hfetch : fetch s = .word (wordOfBytes (s.readMem s.pc.toNat) (s.readMem (s.pc.toNat + 1))) :=
    fetch_eq_word (Nat.succ_lt_succ hpc)
  exact step_of_decodeWord_some hl hfetch (decodeBytes_pair_eq_ok hbytes)

/-- Settles O8: the three branches of the step that run no instruction; what `raise` gives is the halted state. -/
theorem stepStopsWithoutAnInstruction : Obligations.StepStopsWithoutAnInstruction := fun _ =>
  ⟨fun _ => step_of_halted, fun hl _ => step_of_fetch_outside hl, fun hl _ => step_of_decodeWord_none hl⟩

end Sys2Proof
end

section
/-!
SUPPORT. Control transfer: the stops of RET and CALL, the pc each transfer leaves, and the words the rules write
(41_flow.md R110 to R114).
-/

namespace Sys2Proof

open Sys2Proof.Machine Sys2Proof.Laws

variable {s : State} {i : Instr} {f : BitVec 4}

/-! ### The words as the rules write them -/

/-- The rule's `base | nnn` is the packed word, so it decodes to the instruction that packs to it (R81, R82). -/
theorem decodeWord_wordNnn {nnn : Addr12} (h : encode i = packNnn f nnn) :
    decodeWord (wordNnn (packNnn f 0#12) nnn) = some i := by
  rw [wordNnn_eq, ← h, decodeWord_encode]

/-- The rule's `base | x<<8 | kk` is the packed word, so it decodes to the instruction that packs to it (R81, R82). -/
theorem decodeWord_wordXKk {x : RegIdx} {kk : Byte} (h : encode i = packXKk f x kk) :
    decodeWord (wordXKk (packXKk f 0#4 0#8) x kk) = some i := by
  rw [wordXKk_eq, ← h, decodeWord_encode]

/-! ### Targets -/

@[simp] theorem immAddr_toNat (nnn : Addr12) : (immAddr nnn).toNat = nnn.toNat :=
  BitVec.toNat_setWidth_of_le (by decide)

/-- Where there was room for the push, sp counts the new entry and does not wrap (R36, R112). -/
theorem sp_add_one_toNat {j : Fin 16} (h : s.sp.toNat = j.val) : (s.sp + 0x01#8).toNat = j.val + 1 := by bv_omega

/-! ### The stops -/

theorem execRet_empty (h : s.sp.toNat = 0) : execRet s = raise (.stackUnderflow s.sp) s :=
  if_pos (BitVec.eq_of_toNat_eq h)

theorem execRet_aboveStack (h : 16 < s.sp.toNat) : execRet s = .refused (.illegalStackPointer s.sp) := by
  have h0 : s.sp ≠ 0x00#8 := fun e => by simp [e] at h
  have hj : ¬(s.sp - 0x01#8).toNat < 16 := by bv_omega
  simp only [execRet, if_neg h0, dif_neg hj]

theorem execCall_full {nnn : Addr12} (h : 16 ≤ s.sp.toNat) : execCall nnn s = raise (.stackOverflow s.sp) s :=
  dif_neg h.not_gt

/-! ### The conditional skips -/

/-- An instruction that is `skipWhen c` moves pc alone, by 4 where its condition holds and by 2 where it does not
(R104). -/
theorem skip_outcome {c : Bool} {holds fails : Prop} (he : exec i s = .next (skipWhen c s))
    (ht : c = true ↔ holds) (hf : c = false ↔ fails) :
    ∃ t, exec i s = .next t ∧ UnchangedBut [] s t ∧
      (holds → t.pc = s.pc + 4#16) ∧ (fails → t.pc = s.pc + 2#16) :=
  ⟨_, he, unchangedBut_skipWhen c s, fun h => by simp [ht.mpr h], fun h => by simp [hf.mpr h]⟩

/-! ### The obligations -/

/-- Settles O15: RET pops at the entry CALL pushed at, one below the pointer CALL left. -/
theorem retUndoesCall : Obligations.RetUndoesCall := by
  intro nnn s hroom
  have hcall := execCall_completes (nnn := nnn) (j := ⟨s.sp.toNat, hroom⟩) rfl
  exact ⟨_, _, hcall, execRet_completes (j := ⟨s.sp.toNat, hroom⟩) (sp_add_one_toNat rfl), by simp, by simp⟩

/-- Settles O11: the three ranges of sp are the three branches of RET. -/
theorem retPopsOrUnderflows : Obligations.RetPopsOrUnderflows := by
  refine ⟨decodeWord_encode .ret, fun s => ⟨fun j hj => ?_, execRet_empty, execRet_aboveStack⟩⟩
  have he := execRet_completes hj
  have hsp : (s.sp - 0x01#8).toNat = j.val := by bv_omega
  exact ⟨_, he, hsp, rfl, (exec_next (i := .ret) he).unchangedBut⟩

/-- Settles O12: the target is nnn zero-extended. -/
theorem jpSetsPc : Obligations.JpSetsPc := fun nnn s =>
  ⟨decodeWord_wordNnn (f := 0x1#4) rfl, _, rfl, immAddr_toNat nnn, unchangedBut_setPc _ s⟩

/-- Settles O13: CALL pushes where there is room, and otherwise raises before any write. -/
theorem callPushesOrOverflows : Obligations.CallPushesOrOverflows := by
  refine fun nnn s => ⟨decodeWord_wordNnn (f := 0x2#4) rfl, fun j hj => ?_, execCall_full⟩
  have he := execCall_completes (nnn := nnn) hj
  have hframe := (exec_next (i := .call nnn) he).unchangedBut
  rw [written, hj] at hframe
  exact ⟨_, he, State.getStack_setStack_self .., sp_add_one_toNat hj, immAddr_toNat nnn, hframe⟩

/-- Settles O14: SE and SNE are one skip, on a comparison and on its negation. -/
theorem immediateSkips : Obligations.ImmediateSkips := fun _ _ _ =>
  ⟨decodeWord_wordXKk (f := 0x3#4) rfl, decodeWord_wordXKk (f := 0x4#4) rfl,
    skip_outcome rfl beq_iff_eq beq_eq_false_iff_ne, skip_outcome rfl bne_iff_ne bne_eq_false_iff_eq⟩

end Sys2Proof
end

section
/-!
SUPPORT. Registers and ALU: what an instruction leaves that writes Vx alone, or a flag and then Vx, and what an operand
reads after the flag write (42_alu.md R120 to R130).
-/

namespace Sys2Proof

open Sys2Proof.Machine

variable {s : State} {i : Instr} {x y : RegIdx}

/-- The rule's `base | x<<8 | y<<4` is the packed word, so it decodes to the instruction that packs to it (R81, R82). -/
theorem decodeWord_wordXY {f n : BitVec 4} (h : encode i = packXYN f x y n) :
    decodeWord (wordXY (packXYN f 0#4 0#4 n) x y) = some i := by
  rw [wordXY_eq, ← h, decodeWord_encode]

/-! ### Writing Vx alone -/

/-- An instruction that writes one register and advances leaves its value there and nothing else changed. -/
theorem setV_outcome {b : Byte} (he : exec i s = .next (advance (s.setV x b))) :
    ∃ t, exec i s = .next t ∧ t.getV x = b ∧ t.pc = s.pc + 2#16 ∧ UnchangedBut [.v x] s t :=
  ⟨_, he, State.getV_setV_self s x b, rfl, ((WritesOnly.refl _ s).setV (.head _) b).advance.unchangedBut⟩

/-- Settles O17: both loads are one register write. -/
theorem loadsIntoVx : Obligations.LoadsIntoVx := fun _ _ _ _ =>
  ⟨decodeWord_wordXKk (f := 0x6#4) rfl, decodeWord_wordXY (f := 0x8#4) (n := 0x0#4) rfl,
    setV_outcome rfl, setV_outcome rfl⟩

/-- Settles O18: byte addition is addition mod 256. -/
theorem addImmediateWraps : Obligations.AddImmediateWraps := by
  intro x kk s
  obtain ⟨t, he, hv, hpc, hframe⟩ := setV_outcome (i := .addVxKk x kk) (s := s) rfl
  exact ⟨decodeWord_wordXKk (f := 0x7#4) rfl, t, he, hv ▸ BitVec.toNat_add .., hpc, hframe⟩

/-- Settles O19: a bit of the result is the two bits combined. -/
theorem logicOnVx : Obligations.LogicOnVx := by
  intro x y s
  refine ⟨decodeWord_wordXY (f := 0x8#4) (n := 0x2#4) rfl, decodeWord_wordXY (f := 0x8#4) (n := 0x3#4) rfl, ?_, ?_⟩
  · obtain ⟨t, he, hv, hpc, hframe⟩ := setV_outcome (i := .andVxVy x y) (s := s) rfl
    exact ⟨t, he, hpc, hframe, fun b _ => hv ▸ BitVec.getLsbD_and⟩
  · obtain ⟨t, he, hv, hpc, hframe⟩ := setV_outcome (i := .xorVxVy x y) (s := s) rfl
    exact ⟨t, he, hpc, hframe, fun b _ => hv ▸ BitVec.getLsbD_xor⟩

/-- Settles O23: the mask clears its bits of the draw, and the draw is counted. -/
theorem rndMasksAFreshDraw : Obligations.RndMasksAFreshDraw := by
  intro x kk s
  have he : exec (.rndVxKk x kk) s = .next (advance (s.setV x (Config.randomByte s.draws &&& kk)).draw) := rfl
  have hv := State.getV_setV_self s x (Config.randomByte s.draws &&& kk)
  refine ⟨decodeWord_wordXKk (f := 0xC#4) rfl, _, he, hv, fun b hb => ?_, rfl, rfl, (exec_next he).unchangedBut⟩
  rw [advance_getV, State.draw_getV, hv, BitVec.getLsbD_and, hb, Bool.and_false]

/-! ### A flag and then Vx (R126) -/

/-- An instruction that writes VF, then a register, and advances: the register holds the result, and VF the flag unless
it is that register. -/
theorem flagThenSetV_outcome {flag b : Byte} (he : exec i s = .next (advance ((s.setV vF flag).setV x b))) :
    ∃ t, exec i s = .next t ∧ t.getV x = b ∧ (x ≠ vF → t.getV vF = flag) ∧ t.pc = s.pc + 2#16 ∧
      UnchangedBut [.v vF, .v x] s t := by
  refine ⟨_, he, State.getV_setV_self _ x b, fun hx => ?_, rfl, ?_⟩
  · rw [advance_getV, State.getV_setV_ne _ hx.symm, State.getV_setV_self]
  · exact (((WritesOnly.refl _ s).setV (.head _) flag).setV (.tail _ (.head _)) b).advance.unchangedBut

/-- After the flag write an operand reads what the rule says, under both values of VF_OPERAND_READ. -/
theorem getV_operandState_setV_vF (s : State) (flag : Byte) (r : RegIdx) :
    (operandState s (s.setV vF flag)).getV r = Spec.readAfterFlag s flag r := by
  unfold operandState Spec.readAfterFlag
  rw [State.setV_cfg]
  cases s.cfg.vfOperandRead with
  | sequential => exact State.getV_setV s vF r flag
  | snapshot => rfl

theorem flagByte_decide (p : Prop) [Decidable p] : flagByte (decide p) = if p then 0x01#8 else 0x00#8 := by
  simp only [flagByte, decide_eq_true_eq]

/-- The bit shifted out is the parity of the byte. -/
theorem shiftedOutFlag_eq (a : Byte) : shiftedOutFlag a = if a.toNat % 2 = 1 then 0x01#8 else 0x00#8 := by
  have hbit : (a &&& 0x01#8).toNat = a.toNat % 2 := by rw [BitVec.toNat_and]; exact Nat.and_one_is_mod _
  apply BitVec.eq_of_toNat_eq
  rw [shiftedOutFlag, hbit]
  split
  · assumption
  · exact Nat.mod_two_ne_one.mp ‹_›

/-- Settles O20: the sum is of the registers before the instruction, so at x = F only the write order matters. -/
theorem addWritesCarryThenSum : Obligations.AddWritesCarryThenSum := by
  intro x y s
  obtain ⟨t, he, hv, hflag, hpc, hframe⟩ := flagThenSetV_outcome (i := .addVxVy x y) (s := s) rfl
  exact ⟨decodeWord_wordXY (f := 0x8#4) (n := 0x4#4) rfl, t, he, hv ▸ BitVec.toNat_add ..,
    fun hx => (hflag hx).trans (flagByte_decide _), hpc, hframe⟩

/-- Settles O21: the flag compares the old registers, the difference reads the operands after the flag write. -/
theorem subWritesGreaterThenDifference : Obligations.SubWritesGreaterThenDifference := by
  intro x y s flag hf
  obtain rfl : greaterFlag (s.getV x) (s.getV y) = flag := (flagByte_decide _).trans hf.symm
  obtain ⟨t, he, hv, hflag, hpc, hframe⟩ := flagThenSetV_outcome (i := .subVxVy x y) (s := s) rfl
  rw [getV_operandState_setV_vF, getV_operandState_setV_vF] at hv
  refine ⟨decodeWord_wordXY (f := 0x8#4) (n := 0x5#4) rfl, t, he, ?_, hflag, hpc, hframe⟩
  rw [hv, BitVec.toNat_sub, Nat.add_comm]

/-- Settles O22: the flag is the parity of the old Vx, the half is of the operand read after the flag write. -/
theorem shrWritesBitOutThenHalf : Obligations.ShrWritesBitOutThenHalf := by
  intro x y s flag hf
  obtain rfl : shiftedOutFlag (s.getV x) = flag := (shiftedOutFlag_eq _).trans hf.symm
  obtain ⟨t, he, hv, hflag, hpc, hframe⟩ := flagThenSetV_outcome (i := .shrVx x y) (s := s) rfl
  rw [getV_operandState_setV_vF] at hv
  refine ⟨decodeWord_wordXY (f := 0x8#4) (n := 0x6#4) rfl, t, he, ?_, hflag, hpc, hframe⟩
  rw [hv, BitVec.toNat_ushiftRight, Nat.shiftRight_eq_div_pow, pow_one]

end Sys2Proof
end

section
/-!
SUPPORT. Index register and memory: what an instruction leaves that writes I alone, and what the byte runs of Fx33, Fx55
and Fx65 leave when they complete (43_index_memory.md R140 to R146).
-/

namespace Sys2Proof

open Sys2Proof.Machine Sys2Proof.Laws

variable {s t : State} {i : Instr} {x : RegIdx} {count : Nat}

/-- The rule's `base | x<<8` is the packed word, so it decodes to the instruction that packs to it (R81, R82). -/
theorem decodeWord_wordX {f : BitVec 4} {kk : Byte} (h : encode i = packXKk f x kk) :
    decodeWord (wordX (packXKk f 0#4 kk) x) = some i := by
  rw [wordX_eq, ← h, decodeWord_encode]

/-! ### Writing I alone -/

/-- An instruction that writes I and advances leaves its value there and nothing else changed. -/
theorem setI_outcome {a : Word} (he : exec i s = .next (advance (s.setI a))) :
    ∃ t, exec i s = .next t ∧ t.iReg = a ∧ t.pc = s.pc + 2#16 ∧ UnchangedBut [.index] s t :=
  ⟨_, he, rfl, rfl, ((WritesOnly.refl _ s).setI (.head _) a).advance.unchangedBut⟩

@[simp] theorem regAddend_toNat (s : State) (x : RegIdx) : (regAddend s x).toNat = (s.getV x).toNat :=
  BitVec.toNat_setWidth_of_le (by decide)

/-- Settles O24: the value is nnn zero-extended. -/
theorem loadIndexImmediate : Obligations.LoadIndexImmediate := by
  intro nnn s
  obtain ⟨t, he, hi, hpc, hframe⟩ := setI_outcome (i := .ldINnn nnn) (s := s) rfl
  exact ⟨decodeWord_wordNnn (f := 0xA#4) rfl, t, he, hi ▸ immAddr_toNat nnn, hpc, hframe⟩

/-- Settles O25: word addition is addition mod 2^16, and VF is no part of the frame. -/
theorem addToIndexWraps : Obligations.AddToIndexWraps := by
  intro x s
  obtain ⟨t, he, hi, hpc, hframe⟩ := setI_outcome (i := .addIVx x) (s := s) rfl
  refine ⟨decodeWord_wordX (f := 0xF#4) (kk := 0x1E#8) rfl, t, he, ?_, hpc, hframe⟩
  rw [hi, BitVec.toNat_add, regAddend_toNat]

/-- Settles O26: a byte times 5 fits 16 bits, so the product is exact. -/
theorem fontGlyphAddress : Obligations.FontGlyphAddress := by
  intro x s
  obtain ⟨t, he, hi, hpc, hframe⟩ := setI_outcome (i := .ldFVx x) (s := s) rfl
  refine ⟨decodeWord_wordX (f := 0xF#4) (kk := 0x29#8) rfl, t, he, ?_, hpc, hframe⟩
  have hfits : (s.getV x).toNat * 5 < 2 ^ 16 := by have := (s.getV x).isLt; omega
  rw [hi, BitVec.toNat_mul, regAddend_toNat]
  exact Nat.mod_eq_of_lt hfits

/-! ### Stores that stay in memory -/

/-- A run of stores inside memory completes with every byte where it was stored (R66). -/
theorem storeRun_completes (bytes : Nat → Byte) (h : s.iReg.toNat + count ≤ memSize) :
    ∃ t, accessRun count .write (storeByte bytes s) (.start s) s = .next t ∧ t.pc = s.pc + 2#16 ∧
      ∀ j < count, t.readMem (s.iReg.toNat + j) = bytes j := by
  have he := accessRun_completes (access := .write) (body := storeByte bytes s) (p := .start s) (.inr h)
  obtain ⟨hpc, hmem⟩ := storeRun_next he
  refine ⟨_, he, hpc, fun j hj => ?_⟩
  rw [hmem, byteAfterStores, if_pos (by omega), Nat.add_sub_cancel_left]

theorem bcdDigit_hundreds (v : Byte) : (bcdDigit v 0).toNat = v.toNat / 100 :=
  Nat.mod_eq_of_lt (by have := v.isLt; omega)

theorem bcdDigit_tens (v : Byte) : (bcdDigit v 1).toNat = v.toNat / 10 % 10 := Nat.mod_eq_of_lt (by omega)

theorem bcdDigit_ones (v : Byte) : (bcdDigit v 2).toNat = v.toNat % 10 := Nat.mod_eq_of_lt (by omega)

/-- Settles O27: a run of three stores, of a digit each. -/
theorem bcdStoresThreeDigits : Obligations.BcdStoresThreeDigits := by
  refine fun x s => ⟨decodeWord_wordX (f := 0xF#4) (kk := 0x33#8) rfl, fun hI => ?_⟩
  obtain ⟨t, he, hpc, hmem⟩ :=
    storeRun_completes (s := s) (count := 3) (bcdDigit (s.getV x)) (by unfold memSize; omega)
  have hx : exec (.ldBVx x) s = .next t := he
  exact ⟨t, hx, hmem 0 (by decide) ▸ bcdDigit_hundreds _, hmem 1 (by decide) ▸ bcdDigit_tens _,
    hmem 2 (by decide) ▸ bcdDigit_ones _, hpc, (exec_next hx).unchangedBut⟩

/-- Settles O28: a run of x + 1 stores, of a register each. -/
theorem storeRegistersToMemory : Obligations.StoreRegistersToMemory := by
  refine fun x s => ⟨decodeWord_wordX (f := 0xF#4) (kk := 0x55#8) rfl, fun hI => ?_⟩
  obtain ⟨t, he, hpc, hmem⟩ :=
    storeRun_completes (s := s) (count := x.toNat + 1) (fun j => s.getV (BitVec.ofNat 4 j)) (by unfold memSize; omega)
  have hx : exec (.ldMemVx x) s = .next t := he
  refine ⟨t, hx, fun r hr => ?_, hpc, (exec_next hx).unchangedBut⟩
  rw [hmem r.toNat (by omega), BitVec.ofNat_toNat, BitVec.setWidth_eq]

/-! ### Loads that stay in memory -/

/-- Part-way through Fx65, with `j` registers loaded: they hold the bytes from I on, and pc has not moved. -/
structure LoadedSoFar (s : State) (j : Nat) (q : Progress) : Prop where
  samePc : q.now.pc = s.pc
  registers (r : RegIdx) : r.toNat < j → q.now.getV r = s.readMem (s.iReg.toNat + r.toNat)

theorem loadedSoFar_start (s : State) : LoadedSoFar s 0 (.start s) := ⟨rfl, fun _ hr => absurd hr (Nat.not_lt_zero _)⟩

theorem LoadedSoFar.loadRegister {j : Nat} {q : Progress} (h : LoadedSoFar s j q) (hj : j < 16) :
    LoadedSoFar s (j + 1) (loadRegister s j q) where
  samePc := h.samePc
  registers r hr := by
    show (q.now.setV (BitVec.ofNat 4 j) (s.readMem (effectiveAddress s j))).getV r = _
    rw [State.getV_setV]
    split
    · next hrj =>
      have hrj' : r.toNat = j := by rw [hrj, BitVec.toNat_ofNat, Nat.mod_eq_of_lt hj]
      rw [effectiveAddress, hrj']
    · next hrj =>
      have hne : r.toNat ≠ j := fun e => hrj (by rw [← e, BitVec.ofNat_toNat, BitVec.setWidth_eq])
      exact h.registers r (by omega)

/-- Settles O29: after x + 1 loads each of V0 to Vx holds its byte. -/
theorem loadRegistersFromMemory : Obligations.LoadRegistersFromMemory := by
  refine fun x s => ⟨decodeWord_wordX (f := 0xF#4) (kk := 0x65#8) rfl, fun hI => ?_⟩
  have hx : exec (.ldVxMem x) s = .next _ := accessRun_completes (.inr (by unfold memSize; omega))
  have hstep : ∀ j < x.toNat + 1, ∀ q, LoadedSoFar s j q → LoadedSoFar s (j + 1) (loadRegister s j q) :=
    fun j hj q hq => hq.loadRegister (by have := x.isLt; omega)
  have hend := foldl_range_induct (loadRegister s) (x.toNat + 1) hstep (loadedSoFar_start s)
  exact ⟨_, hx, fun r hr => hend.registers r (by omega), by rw [advance_pc, hend.samePc], (exec_next hx).unchangedBut⟩

end Sys2Proof
end

section
/-!
SUPPORT. A run of byte accesses that leaves memory: the fault it ends in, what of its writes the halted state can hold,
and the faults of Fx33, Fx55 and Fx65 (20_memory.md R63; 60_exceptions.md R172, R175, R176; 43_index_memory.md R143 to
R145).
-/

namespace Sys2Proof

open Sys2Proof.Machine

variable {s : State} {x : RegIdx} {count : Nat} {access : Access} {body : Nat → Progress → Progress} {p : Progress}
  {w : List Part} {es : List Effect}

/-! ### What a surviving subset of writes leaves -/

/-- A place that every write of a list leaves alone or sets: afterwards it holds its old value, or one that some write
of the list puts there. -/
theorem partialEffects_old_or_written {α : Type} {read : State → α} {write : α → Effect}
    (happly : ∀ e t, read (e.apply t) = read t ∨ e = write (read (e.apply t)))
    (hdraw : ∀ t, read t.draw = read t) (es : List Effect) (s : State) :
    read (partialEffects es s) = read s ∨ write (read (partialEffects es s)) ∈ es := by
  refine partialEffects_induct (P := fun t => read t = read s ∨ write (read t) ∈ es) (fun e he t ht => ?_)
    (fun t ht => by rwa [hdraw]) (.inl rfl)
  obtain hold | hset := happly e t
  · rwa [hold]
  · exact .inr (hset ▸ he)

theorem readMem_partialEffects (es : List Effect) (s : State) (a : Nat) :
    (partialEffects es s).readMem a = s.readMem a ∨ .memory a ((partialEffects es s).readMem a) ∈ es := by
  refine partialEffects_old_or_written (read := (·.readMem a)) (write := .memory a) (fun e t => ?_) (fun _ => rfl) es s
  cases e with
  | memory k b =>
    by_cases hk : a = k
    · subst hk
      exact .inr (congrArg _ (State.readMem_writeMem_self t a b).symm)
    · exact .inl ((State.readMem_writeMem t k a b).trans (if_neg hk))
  | register | pixel => exact .inl rfl

theorem getV_partialEffects (es : List Effect) (s : State) (r : RegIdx) :
    (partialEffects es s).getV r = s.getV r ∨ .register r ((partialEffects es s).getV r) ∈ es := by
  refine partialEffects_old_or_written (read := (·.getV r)) (write := .register r) (fun e t => ?_) (fun _ => rfl) es s
  cases e with
  | register q b =>
    by_cases hq : r = q
    · subst hq
      exact .inr (congrArg _ (State.getV_setV_self t r b).symm)
    · exact .inl (State.getV_setV_ne t hq b)
  | memory | pixel => exact .inl rfl

theorem getPixel_partialEffects (es : List Effect) (s : State) (a b : Nat) :
    (partialEffects es s).getPixel a b = s.getPixel a b ∨ .pixel a b ((partialEffects es s).getPixel a b) ∈ es := by
  refine partialEffects_old_or_written (read := (·.getPixel a b)) (write := .pixel a b) (fun e t => ?_) (fun _ => rfl)
    es s
  cases e with
  | pixel px py on =>
    have hget := State.getPixel_drawPixel t px py a b on
    by_cases hp : a = px ∧ b = py
    · rw [if_pos hp] at hget
      obtain ⟨rfl, rfl⟩ := hp
      exact .inr (congrArg _ hget.symm)
    · exact .inl (hget.trans (if_neg hp))
  | memory | register => exact .inl rfl

theorem partialEffects_pc (es : List Effect) (s : State) : (partialEffects es s).pc = s.pc :=
  partialEffects_induct (P := fun t => t.pc = s.pc) (fun e _ t ht => (Effect.apply_pc e t).trans ht) (fun _ ht => ht) rfl

/-! ### The fault of a run that leaves memory -/

/-- The machine halted with any subset of writes to the parts listed (R176). -/
theorem haltedPartWay_partialEffects (k : FaultKind) (s : State) (hes : ∀ e ∈ es, e.part ∈ w) (hd : Part.draws ∈ w) :
    Spec.HaltedPartWay k w s (halt k (partialEffects es s)) := by
  have hpc := partialEffects_pc es s
  refine ⟨by rw [halt_faultLatch, hpc], hpc, ?_⟩
  exact { unchangedBut_partialEffects s hes hd with faultLatch := rfl }

/-- The state a run of byte accesses that leaves memory halts in: a subset survives of the writes of the accesses that
lie in memory. -/
def runHalted (access : Access) (body : Nat → Progress → Progress) (p : Progress) (s : State) : State :=
  halt (.memoryOutOfRange (max s.iReg.toNat 0x1000) access)
    (partialEffects ((List.range (0x1000 - s.iReg.toNat)).foldl (fun q j => body j q) p).done s)

theorem accessRun_eq_fault (h0 : count ≠ 0) (h : 0x1000 < s.iReg.toNat + count) :
    accessRun count access body p s =
      .fault (.memoryOutOfRange (max s.iReg.toNat 0x1000) access (runHalted access body p s)) :=
  accessRun_faults h0 h

theorem runHalted_partWay (hd : Part.draws ∈ w)
    (hes : ∀ e ∈ ((List.range (0x1000 - s.iReg.toNat)).foldl (fun q j => body j q) p).done, e.part ∈ w) :
    Spec.HaltedPartWay (.memoryOutOfRange (max s.iReg.toNat 0x1000) access) w s (runHalted access body p s) :=
  haltedPartWay_partialEffects _ s hes hd

/-! ### Runs of one write each -/

/-- The writes made by a run whose access `j` makes the one write `e j`: the shape of Fx33, Fx55 and Fx65. -/
theorem mem_done_foldl_emit (e : Nat → Effect) (k : Nat) {f : Effect} :
    f ∈ ((List.range k).foldl (fun (q : Progress) j => q.emit (e j)) (.start s)).done ↔ ∃ j < k, e j = f := by
  have hdone : ((List.range k).foldl (fun (q : Progress) j => q.emit (e j)) (.start s)).done = (List.range k).map e := by
    induction k with
    | zero => rfl
    | succ k ih => simp [List.range_succ, ih]
  simp [hdone]

/-- A run of stores that leaves memory faults, and below 0x1000 each byte is old or the one stored there. -/
theorem storeRun_faults (bytes : Nat → Byte) (h0 : count ≠ 0) (h : 0x1000 < s.iReg.toNat + count) :
    ∃ u, accessRun count .write (storeByte bytes s) (.start s) s =
        .fault (.memoryOutOfRange (max s.iReg.toNat 0x1000) .write u) ∧
      Spec.HaltedPartWay (.memoryOutOfRange (max s.iReg.toNat 0x1000) .write)
        (.draws :: memoryParts s.iReg.toNat (0x1000 - s.iReg.toNat)) s u ∧
      ∀ j, u.readMem (s.iReg.toNat + j) = s.readMem (s.iReg.toNat + j) ∨ u.readMem (s.iReg.toNat + j) = bytes j := by
  have hdone {f : Effect} := mem_done_foldl_emit (s := s) (f := f)
    (fun j => .memory (s.iReg.toNat + j) (bytes j)) (0x1000 - s.iReg.toNat)
  refine ⟨_, accessRun_eq_fault h0 h, runHalted_partWay (.head _) fun e he => ?_, fun j => ?_⟩
  · obtain ⟨j, hj, rfl⟩ := hdone.mp he
    exact .tail _ (memory_mem_memoryParts hj)
  · refine (readMem_partialEffects _ s _).imp_right fun hmem => ?_
    obtain ⟨i, -, hi⟩ := hdone.mp hmem
    obtain ⟨haddr, hbyte⟩ := Effect.memory.inj hi
    obtain rfl : i = j := Nat.add_left_cancel haddr
    exact hbyte.symm

/-- Settles O30: both instructions are runs of stores. -/
theorem storesPastTheEndFault : Obligations.StoresPastTheEndFault := by
  refine fun x s => ⟨fun hI => ?_, fun hI => ?_⟩
  · obtain ⟨u, he, hframe, hmem⟩ :=
      storeRun_faults (s := s) (count := 3) (bcdDigit (s.getV x)) (by decide) (by omega)
    exact ⟨u, he, hframe, fun j _ => hmem j⟩
  · obtain ⟨u, he, hframe, hmem⟩ := storeRun_faults (s := s) (count := x.toNat + 1)
      (fun j => s.getV (BitVec.ofNat 4 j)) (Nat.succ_ne_zero _) (by omega)
    refine ⟨u, he, hframe, fun r _ => ?_⟩
    have hr := hmem r.toNat
    rwa [BitVec.ofNat_toNat, BitVec.setWidth_eq] at hr

/-- Fx65 that leaves memory faults, and each register is old or the byte loaded there from below 0x1000. -/
theorem execLdVxMem_faults (h : 0xFFF < s.iReg.toNat + x.toNat) :
    ∃ u, exec (.ldVxMem x) s = .fault (.memoryOutOfRange (max s.iReg.toNat 0x1000) .read u) ∧
      Spec.HaltedPartWay (.memoryOutOfRange (max s.iReg.toNat 0x1000) .read) (.draws :: registersUpTo x) s u ∧
      ∀ r : RegIdx, u.getV r = s.getV r ∨
        (s.iReg.toNat + r.toNat ≤ 0xFFF ∧ u.getV r = s.readMem (s.iReg.toNat + r.toNat)) := by
  have hdone {f : Effect} := mem_done_foldl_emit (s := s) (f := f)
    (fun j => .register (BitVec.ofNat 4 j) (s.readMem (s.iReg.toNat + j))) (0x1000 - s.iReg.toNat)
  have hx := x.isLt
  have he : exec (.ldVxMem x) s = .fault _ := accessRun_eq_fault (Nat.succ_ne_zero _) (by omega)
  refine ⟨_, he, runHalted_partWay (.head _) fun e he => ?_, fun r => ?_⟩
  · obtain ⟨j, hj, rfl⟩ := hdone.mp he
    exact .tail _ (register_mem_registersUpTo (by omega))
  · refine (getV_partialEffects _ s r).imp_right fun hreg => ?_
    obtain ⟨j, hj, hjr⟩ := hdone.mp hreg
    obtain ⟨rfl, hbyte⟩ := Effect.register.inj hjr
    rw [BitVec.toNat_ofNat, Nat.mod_eq_of_lt (by omega)]
    exact ⟨by omega, hbyte.symm⟩

end Sys2Proof
end

section
/-!
SUPPORT. The blitter follows the rule's pixel loop: each set bit it draws keeps its progress in step with the loop's
canvas and Display operations (44_display.md R151 to R153), and the fault of a Dxyn that leaves memory (60_exceptions.md
R172, R175, R176).
-/

namespace Sys2Proof

open Sys2Proof.Machine

variable {s : State} {x y r : RegIdx} {n : Nibble} {p : Progress} {c : Spec.Canvas} {calls : List DeviceCall}
  {bits : List (Nat × Nat)}

/-! ### The rows of a sprite as one list of set bits -/

theorem drawRow_eq_foldl (x y : RegIdx) (s : State) (row : Nat) (p : Progress) :
    drawRow x y s row p = (((List.range 8).filter (spriteBit (s.readMem (s.iReg.toNat + row)))).map
      (fun col => (row, col))).foldl (fun q rc => xorPixel x y s rc.1 rc.2 q) p := by
  rw [List.foldl_map, List.foldl_filter]
  rfl

/-- The rows drawn one after another are the set bits drawn in drawing order. -/
theorem foldl_drawRow_eq (x y : RegIdx) (s : State) (rows : Nat) (p : Progress) :
    (List.range rows).foldl (fun q row => drawRow x y s row q) p =
      (Spec.setBits s rows).foldl (fun q rc => xorPixel x y s rc.1 rc.2 q) p := by
  simp only [Spec.setBits, List.foldl_flatMap, drawRow_eq_foldl]
  rfl

/-! ### In step with the loop -/

/-- The writes of the blitter once it has called `calls`: a pixel, the reset of VF, and VF = 1 where it has turned a pixel
off (R151). -/
inductive BlitWrite (calls : List DeviceCall) : Effect → Prop where
  | pixel (a b : Nat) (on : Bool) : BlitWrite calls (.pixel a b on)
  | reset : BlitWrite calls (.register vF 0x00#8)
  | collision (a b : Nat) : .drawPixel a b false ∈ calls → BlitWrite calls (.register vF 0x01#8)

namespace BlitWrite

theorem mono {e : Effect} {calls' : List DeviceCall} (h : BlitWrite calls e) (hc : calls ⊆ calls') :
    BlitWrite calls' e := by
  cases h with
  | pixel a b on => exact .pixel a b on
  | reset => exact .reset
  | collision a b hm => exact .collision a b (hc hm)

theorem part_eq {e : Effect} (h : BlitWrite calls e) : e.part = .v vF ∨ e.part = .display := by
  cases h with
  | pixel => exact .inr rfl
  | reset | collision => exact .inl rfl

theorem register_value {b : Byte} (h : BlitWrite calls (.register r b)) :
    b = 0x00#8 ∨ (b = 0x01#8 ∧ ∃ px py, .drawPixel px py false ∈ calls) := by
  cases h with
  | reset => exact .inl rfl
  | collision px py hm => exact .inr ⟨rfl, px, py, hm⟩

end BlitWrite

/-- The blitter's progress from `s` is in step with the rule's loop: bitmap and VF are those of the canvas, the other
registers are as they were, and the Display operations of its writes are the loop's. -/
structure InStep (s : State) (calls : List DeviceCall) (c : Spec.Canvas) (p : Progress) : Prop where
  config : p.now.cfg = s.cfg
  registers : ∀ r, r ≠ vF → p.now.getV r = s.getV r
  flag : p.now.getV vF = c.vf
  pixels : ∀ a b, p.now.getPixel a b = c.pixel a b
  displayCalls : p.done.flatMap pixelCalls = calls
  writes : ∀ e ∈ p.done, BlitWrite calls e

namespace InStep

/-- Dxyn starts with VF = 0, and no Display operation called (R151). -/
theorem start (s : State) : InStep s [] ⟨s.getPixel, 0x00#8⟩ (drawStart s) where
  config := rfl
  registers _ hr := State.getV_setV_ne s hr _
  flag := State.getV_setV_self s vF _
  pixels _ _ := rfl
  displayCalls := rfl
  writes _ he := List.mem_singleton.mp he ▸ .reset

/-- The coordinates are read where the rule reads them (R126). -/
theorem getV_operandState (h : InStep s calls c p) (r : RegIdx) :
    (operandState s p.now).getV r = Spec.readAfterFlag s c.vf r := by
  unfold operandState Spec.readAfterFlag
  rw [h.config]
  cases s.cfg.vfOperandRead with
  | sequential =>
    by_cases hr : r = vF
    · subst hr
      exact h.flag.trans (if_pos rfl).symm
    · exact (h.registers r hr).trans (if_neg hr).symm
  | snapshot => rfl

theorem emitPixel (h : InStep s calls c p) (a b : Nat) (on : Bool) :
    InStep s (calls ++ [.getPixel a b, .drawPixel a b on])
      ⟨fun a' b' => if a' = a ∧ b' = b then on else c.pixel a' b', c.vf⟩ (p.emit (.pixel a b on)) where
  config := h.config
  registers := h.registers
  flag := h.flag
  pixels a' b' := by
    show _ = if a' = a ∧ b' = b then on else c.pixel a' b'
    rw [← h.pixels]
    exact State.getPixel_drawPixel p.now a b a' b' on
  displayCalls := by rw [Progress.emit_done, List.flatMap_append, h.displayCalls]; rfl
  writes e he := by
    obtain he | he := List.mem_append.mp he
    · exact (h.writes e he).mono (List.subset_append_left _ _)
    · exact List.mem_singleton.mp he ▸ .pixel a b on

theorem emitCollision (h : InStep s calls c p) {a b : Nat} (hm : .drawPixel a b false ∈ calls) :
    InStep s calls ⟨c.pixel, 0x01#8⟩ (p.emit (.register vF collisionFlag)) where
  config := h.config
  registers r hr := (State.getV_setV_ne p.now hr _).trans (h.registers r hr)
  flag := State.getV_setV_self p.now vF _
  pixels := h.pixels
  displayCalls := by rw [Progress.emit_done, List.flatMap_append, h.displayCalls]; exact List.append_nil _
  writes e he := by
    obtain he | he := List.mem_append.mp he
    · exact h.writes e he
    · exact List.mem_singleton.mp he ▸ .collision a b hm

theorem drawPixel_mem (h : InStep s calls c p) {a b : Nat} {on : Bool} (hm : .pixel a b on ∈ p.done) :
    .drawPixel a b on ∈ calls := by
  rw [← h.displayCalls]
  exact List.mem_flatMap.mpr ⟨_, hm, .tail _ (.head _)⟩

/-- One set bit of the sprite is one pixel of the rule's loop: dropped outside the bitmap, else drawn, with VF = 1 at a
collision (R151, R152). -/
theorem xorPixel (h : InStep s calls c p) (x y : RegIdx) (row col : Nat) :
    let px := (Spec.readAfterFlag s c.vf x).toNat + col
    let py := (Spec.readAfterFlag s c.vf y).toNat + row
    InStep s
      (calls ++ if px < s.cfg.displayWidth ∧ py < s.cfg.displayHeight then
        [.getPixel px py, .drawPixel px py (!c.pixel px py)] else [])
      (Spec.plot s.cfg.displayWidth s.cfg.displayHeight px py c) (xorPixel x y s row col p) := by
  intro px py
  simp only [Machine.xorPixel, h.getV_operandState, State.getWidth_eq, State.getHeight_eq, h.config, h.pixels]
  by_cases hin : px < s.cfg.displayWidth ∧ py < s.cfg.displayHeight
  · have hdrawn := h.emitPixel px py (!c.pixel px py)
    rw [Spec.plot, if_pos hin, if_pos hin, if_pos hin]
    cases hold : c.pixel px py with
    | false =>
      rw [hold] at hdrawn
      exact hdrawn
    | true =>
      rw [hold] at hdrawn
      exact hdrawn.emitCollision (a := px) (b := py) (by simp)
  · rw [Spec.plot, if_neg hin, if_neg hin, if_neg hin, List.append_nil]
    exact h

/-- The set bits drawn in order are the rule's loop over them. -/
theorem foldl_xorPixel (h : InStep s calls c p) (x y : RegIdx) (bits : List (Nat × Nat)) :
    InStep s (calls ++ Spec.blitCalls s x y bits c) (Spec.blit s x y bits c)
      (bits.foldl (fun q rc => Machine.xorPixel x y s rc.1 rc.2 q) p) := by
  induction bits generalizing calls c p with
  | nil => exact (List.append_nil calls).symm ▸ h
  | cons bit rest ih =>
    rw [Spec.blitCalls, ← List.append_assoc]
    exact ih (h.xorPixel x y bit.1 bit.2)

end InStep

/-- The first `rows` rows of a sprite leave the blitter in step with the rule's loop over their set bits. -/
theorem inStep_drawRows (x y : RegIdx) (s : State) (rows : Nat) :
    InStep s (Spec.blitCalls s x y (Spec.setBits s rows) ⟨s.getPixel, 0x00#8⟩)
      (Spec.blit s x y (Spec.setBits s rows) ⟨s.getPixel, 0x00#8⟩)
      ((List.range rows).foldl (fun q row => drawRow x y s row q) (drawStart s)) := by
  rw [foldl_drawRow_eq]
  exact (InStep.start s).foldl_xorPixel x y _

/-! ### The pixels the loop draws -/

theorem mem_setBits {rows row col : Nat} :
    (row, col) ∈ Spec.setBits s rows ↔
      row < rows ∧ col < 8 ∧ (s.readMem (s.iReg.toNat + row)).getLsbD (7 - col) = true := by
  simp [Spec.setBits]

theorem readAfterFlag_of_fixedOrigin_left (h : Spec.FixedOrigin s x y) (flag : Byte) :
    Spec.readAfterFlag s flag x = s.getV x := by
  unfold Spec.readAfterFlag
  obtain ⟨hx, -⟩ | hsnap := h
  · rw [if_neg hx]
    cases s.cfg.vfOperandRead <;> rfl
  · rw [hsnap]

theorem Spec.FixedOrigin.symm (h : Spec.FixedOrigin s x y) : Spec.FixedOrigin s y x := h.imp_left And.symm

/-- With a fixed origin the loop draws inside the bitmap, and only where a set bit lands. -/
theorem drawPixel_mem_blitCalls (h : Spec.FixedOrigin s x y) {a b : Nat} {on : Bool}
    (hm : .drawPixel a b on ∈ Spec.blitCalls s x y bits c) :
    a < s.cfg.displayWidth ∧ b < s.cfg.displayHeight ∧
      ∃ rc ∈ bits, a = (s.getV x).toNat + rc.2 ∧ b = (s.getV y).toNat + rc.1 := by
  induction bits generalizing c with
  | nil => simp [Spec.blitCalls] at hm
  | cons bit rest ih =>
    simp only [Spec.blitCalls, readAfterFlag_of_fixedOrigin_left h, readAfterFlag_of_fixedOrigin_left h.symm] at hm
    obtain hhead | hrest := List.mem_append.mp hm
    · split at hhead
      · next hin =>
        obtain ⟨rfl, rfl, -⟩ : a = _ ∧ b = _ ∧ on = _ := by simpa using hhead
        exact ⟨hin.1, hin.2, bit, .head _, rfl, rfl⟩
      · cases hhead
    · obtain ⟨ha, hb, rc, hrc, hab⟩ := ih hrest
      exact ⟨ha, hb, rc, .tail _ hrc, hab⟩

theorem covers_of_drawPixel_mem_blitCalls (h : Spec.FixedOrigin s x y) {rows a b : Nat} {on : Bool}
    (hm : .drawPixel a b on ∈ Spec.blitCalls s x y (Spec.setBits s rows) c) : Spec.Covers s x y rows a b := by
  obtain ⟨ha, hb, ⟨row, col⟩, hrc, hax, hby⟩ := drawPixel_mem_blitCalls h hm
  obtain ⟨hrow, hcol, hbit⟩ := mem_setBits.mp hrc
  exact ⟨ha, hb, row, col, hrow, hcol, hax, hby, hbit⟩

/-! ### A sprite that leaves memory -/

/-- Dxyn that leaves memory faults, and VF and each pixel are old or written by the rule's loop over the rows that lie in
memory. -/
theorem execDrw_faults (h : ¬Spec.SpriteInMemory s n) :
    let calls := Spec.blitCalls s x y (Spec.setBits s (0x1000 - s.iReg.toNat)) ⟨s.getPixel, 0x00#8⟩
    ∃ u, exec (.drw x y n) s = .fault (.memoryOutOfRange (max s.iReg.toNat 0x1000) .read u) ∧
      Spec.HaltedPartWay (.memoryOutOfRange (max s.iReg.toNat 0x1000) .read) [.draws, .v vF, .display] s u ∧
      (u.getV vF = s.getV vF ∨ u.getV vF = 0x00#8 ∨ (u.getV vF = 0x01#8 ∧ ∃ a b, .drawPixel a b false ∈ calls)) ∧
      ∀ a b, u.getPixel a b = s.getPixel a b ∨ .drawPixel a b (u.getPixel a b) ∈ calls := by
  obtain ⟨h0, hI⟩ := not_or.mp h
  have hstep := inStep_drawRows x y s (0x1000 - s.iReg.toNat)
  have he : exec (.drw x y n) s = .fault _ := accessRun_eq_fault h0 (not_le.mp hI)
  refine ⟨_, he, runHalted_partWay (.head _) fun e he => ?_, ?_, fun a b => ?_⟩
  · obtain hv | hd := (hstep.writes e he).part_eq
    · exact hv ▸ .tail _ (.head _)
    · exact hd ▸ .tail _ (.tail _ (.head _))
  · exact (getV_partialEffects _ s vF).imp_right fun hm => (hstep.writes _ hm).register_value
  · exact (getPixel_partialEffects _ s a b).imp_right hstep.drawPixel_mem

/-- Settles O31: Fx65 loads a register at each access, Dxyn draws a row, and each faults with a subset of those writes. -/
theorem readsPastTheEndFault : Obligations.ReadsPastTheEndFault := by
  refine ⟨fun x s => execLdVxMem_faults, fun x y n s hn => ?_⟩
  obtain ⟨u, he, hframe, hvf, hpixels⟩ := execDrw_faults (x := x) (y := y) hn
  refine ⟨u, he, hframe, hvf, hpixels, fun horigin a b hcover => ?_⟩
  exact (hpixels a b).resolve_right fun hm => hcover (covers_of_drawPixel_mem_blitCalls horigin hm)

end Sys2Proof
end

section
/-!
SUPPORT. Dxyn that stays in memory: the rule's pixel loop gives the bitmap and VF it leaves and the Display operations it
calls, for every x and y (44_display.md R151 to R153; 42_alu.md R126).
-/

namespace Sys2Proof

open Sys2Proof.Machine

variable {s : State} {x y : RegIdx} {n : Nibble}

/-- The rule's `base | x<<8 | y<<4 | n` is the packed word, so it decodes to the instruction that packs to it (R81, R82). -/
theorem decodeWord_wordXYN {i : Instr} {f : BitVec 4} (h : encode i = packXYN f x y n) :
    decodeWord (wordXYN (packXYN f 0#4 0#4 0#4) x y n) = some i := by
  rw [wordXYN_eq, ← h, decodeWord_encode]

/-- However many rows it has drawn, the blitter has written VF and the bitmap alone. -/
theorem writesOnly_drawRows (x y : RegIdx) (s : State) (rows : Nat) :
    WritesOnly [.v vF, .display] s ((List.range rows).foldl (fun q row => drawRow x y s row q) (drawStart s)).now :=
  have hv : Part.v vF ∈ [Part.v vF, .display] := .head _
  have hstart : WritesOnly [.v vF, .display] s (drawStart s).now := (WritesOnly.refl _ s).emit hv
  foldl_range_induct (P := fun _ q => WritesOnly [.v vF, .display] s q.now) (drawRow x y s) rows
    (fun _ _ _ => writesOnly_drawRow hv (.tail _ (.head _))) hstart

/-- Dxyn with its rows in memory completes with the bitmap and VF of the rule's loop, and changes nothing else. -/
theorem execDrw_completes (h : Spec.SpriteInMemory s n) :
    ∃ t, exec (.drw x y n) s = .next t ∧ t.pc = s.pc + 2#16 ∧ UnchangedBut [.v vF, .display] s t ∧
      t.getV vF = (Spec.blit s x y (Spec.setBits s n.toNat) ⟨s.getPixel, 0x00#8⟩).vf ∧
      ∀ a b, t.getPixel a b = (Spec.blit s x y (Spec.setBits s n.toNat) ⟨s.getPixel, 0x00#8⟩).pixel a b := by
  have hwrites := writesOnly_drawRows x y s n.toNat
  have hstep := inStep_drawRows x y s n.toNat
  exact ⟨_, accessRun_completes h, congrArg (· + 2#16) hwrites.samePc, hwrites.advance.unchangedBut, hstep.flag,
    hstep.pixels⟩

/-- A pixel plotted inside the bitmap is flipped, and no other (R151). -/
theorem plot_pixel {w h px py : Nat} (hin : px < w ∧ py < h) (c : Spec.Canvas) (a b : Nat) :
    (Spec.plot w h px py c).pixel a b = if a = px ∧ b = py then !c.pixel px py else c.pixel a b := by
  rw [Spec.plot, if_pos hin]

/-- A pixel plotted inside the bitmap sets VF where it was on (R151). -/
theorem plot_vf {w h px py : Nat} (hin : px < w ∧ py < h) (c : Spec.Canvas) :
    (Spec.plot w h px py c).vf = if c.pixel px py then 0x01#8 else c.vf := by
  rw [Spec.plot, if_pos hin]

/-- A pixel outside the bitmap is dropped (R152). -/
theorem plot_of_outside {w h px py : Nat} (hout : ¬(px < w ∧ py < h)) (c : Spec.Canvas) :
    Spec.plot w h px py c = c := if_neg hout

theorem plot_vf_zero_or_one (w h px py : Nat) {c : Spec.Canvas} (hc : c.vf = 0x00#8 ∨ c.vf = 0x01#8) :
    (Spec.plot w h px py c).vf = 0x00#8 ∨ (Spec.plot w h px py c).vf = 0x01#8 := by
  by_cases hin : px < w ∧ py < h
  · rw [plot_vf hin]
    split
    · exact .inr rfl
    · exact hc
  · rwa [plot_of_outside hin]

/-- The loop leaves VF at 0 or 1 if it starts there (R151). -/
theorem blit_vf_zero_or_one (s : State) (x y : RegIdx) (bits : List (Nat × Nat)) {c : Spec.Canvas}
    (hc : c.vf = 0x00#8 ∨ c.vf = 0x01#8) :
    (Spec.blit s x y bits c).vf = 0x00#8 ∨ (Spec.blit s x y bits c).vf = 0x01#8 := by
  induction bits generalizing c with
  | nil => exact hc
  | cons bit rest ih => exact ih (plot_vf_zero_or_one _ _ _ _ hc)

/-- Settles O34: VF is the loop's, and the loop starts it at 0. -/
theorem drwCompletes : Obligations.DrwCompletes := by
  refine fun x y n s => ⟨decodeWord_wordXYN (f := 0xD#4) rfl, fun hm => ?_⟩
  obtain ⟨t, he, hpc, hframe, hvf, -⟩ := execDrw_completes (x := x) (y := y) hm
  exact ⟨t, he, hvf ▸ blit_vf_zero_or_one s x y _ (.inl rfl), hpc, hframe⟩

/-- Settles O35: the blitter stays in step with the loop. -/
theorem drwFollowsThePixelLoop : Obligations.DrwFollowsThePixelLoop := by
  intro x y n s hm
  obtain ⟨t, he, -, -, hvf, hpixels⟩ := execDrw_completes (x := x) (y := y) hm
  exact ⟨t, he, hvf, hpixels⟩

/-- With its rows in memory, Dxyn makes the Display operations of every row. -/
theorem drwCalls_eq_blitCalls (h : Spec.SpriteInMemory s n) :
    drwCalls x y n s = Spec.blitCalls s x y (Spec.setBits s n.toNat) ⟨s.getPixel, 0x00#8⟩ := by
  rw [drwCalls, inRange_of_le (base := effectiveAddress s 0) h]
  exact (inStep_drawRows x y s n.toNat).displayCalls

/-- Settles O57: the blitter's Display operations are in step with the loop's. -/
theorem drwCallsFollowThePixelLoop : Obligations.DrwCallsFollowThePixelLoop := fun _ _ _ _ => drwCalls_eq_blitCalls

end Sys2Proof
end

section
/-!
SUPPORT. Dxyn with a fixed origin: the loop visits each pixel once, so it flips the covered pixels, and two draws meet
only where both sprites cover (44_display.md R151, R152, R154).
-/

namespace Sys2Proof

open Sys2Proof.Machine

variable {s t : State} {x y : RegIdx} {n : Nibble} {c c' : Spec.Canvas} {calls : List DeviceCall}
  {rows a b : Nat} {pts : List (Nat × Nat)}

/-! ### Where the set bits land -/

/-- The pixels inside the bitmap on which set bits land from the origin (Vx, Vy), in drawing order (R151, R152). -/
def landings (s : State) (x y : RegIdx) (bits : List (Nat × Nat)) : List (Nat × Nat) :=
  (bits.map (fun rc => ((s.getV x).toNat + rc.2, (s.getV y).toNat + rc.1))).filter
    (fun p => decide (p.1 < s.cfg.displayWidth ∧ p.2 < s.cfg.displayHeight))

theorem landings_cons (s : State) (x y : RegIdx) (rc : Nat × Nat) (rest : List (Nat × Nat)) :
    landings s x y (rc :: rest) =
      if (s.getV x).toNat + rc.2 < s.cfg.displayWidth ∧ (s.getV y).toNat + rc.1 < s.cfg.displayHeight then
        ((s.getV x).toNat + rc.2, (s.getV y).toNat + rc.1) :: landings s x y rest
      else landings s x y rest := by
  simp only [landings, List.map_cons, List.filter_cons, decide_eq_true_eq]

theorem mem_landings_setBits : (a, b) ∈ landings s x y (Spec.setBits s rows) ↔ Spec.Covers s x y rows a b := by
  simp only [landings, List.mem_filter, List.mem_map, Prod.exists, mem_setBits, Prod.mk.injEq, decide_eq_true_eq,
    Spec.Covers]
  constructor
  · rintro ⟨⟨row, col, ⟨hrow, hcol, hbit⟩, ha, hb⟩, hw, hh⟩
    exact ⟨hw, hh, row, col, hrow, hcol, ha.symm, hb.symm, hbit⟩
  · rintro ⟨hw, hh, row, col, hrow, hcol, ha, hb, hbit⟩
    exact ⟨⟨row, col, ⟨hrow, hcol, hbit⟩, ha.symm, hb.symm⟩, hw, hh⟩

theorem nodup_setBits (s : State) (rows : Nat) : (Spec.setBits s rows).Nodup := by
  refine List.nodup_flatMap.mpr ⟨fun row _ => ?_, List.nodup_range.imp fun hne => ?_⟩
  · exact (List.nodup_range.filter _).map fun _ _ h => congrArg Prod.snd h
  · simp only [Function.onFun, List.disjoint_left, List.mem_map]
    rintro _ ⟨_, -, rfl⟩ ⟨_, -, h⟩
    exact hne (congrArg Prod.fst h).symm

/-- No two set bits land on the same pixel. -/
theorem nodup_landings_setBits (s : State) (x y : RegIdx) (rows : Nat) :
    (landings s x y (Spec.setBits s rows)).Nodup := by
  refine ((nodup_setBits s rows).map fun p q h => ?_).filter _
  obtain ⟨hcol, hrow⟩ := Prod.mk.inj h
  exact Prod.ext (Nat.add_left_cancel hrow) (Nat.add_left_cancel hcol)

/-! ### The loop flips each landing once -/

/-- From `c` to `c'` each of the pixels `pts` has been queried and then drawn flipped, with VF = 1 where one was on. -/
structure FlipsEach (pts : List (Nat × Nat)) (c c' : Spec.Canvas) (calls : List DeviceCall) : Prop where
  pixels : ∀ a b, c'.pixel a b = (c.pixel a b ^^ decide ((a, b) ∈ pts))
  flag : c'.vf = if pts.any (fun p => c.pixel p.1 p.2) then 0x01#8 else c.vf
  displayCalls : calls = pts.flatMap (fun p => [.getPixel p.1 p.2, .drawPixel p.1 p.2 (!c.pixel p.1 p.2)])

theorem flipsEach_nil (c : Spec.Canvas) : FlipsEach [] c c [] := ⟨by simp, rfl, rfl⟩

/-- A pixel plotted first, inside the bitmap, is one more flip: the later ones do not come back to it. -/
theorem FlipsEach.cons {w h px py : Nat} (hin : px < w ∧ py < h) (hnew : (px, py) ∉ pts)
    (hrest : FlipsEach pts (Spec.plot w h px py c) c' calls) :
    FlipsEach ((px, py) :: pts) c c' ([.getPixel px py, .drawPixel px py (!c.pixel px py)] ++ calls) := by
  have hold : ∀ p ∈ pts, (Spec.plot w h px py c).pixel p.1 p.2 = c.pixel p.1 p.2 := by
    rintro ⟨a, b⟩ hp
    rw [plot_pixel hin]
    refine if_neg ?_
    rintro ⟨rfl, rfl⟩
    exact hnew hp
  refine ⟨fun a b => ?_, ?_, ?_⟩
  · rw [hrest.pixels, plot_pixel hin]
    by_cases hab : a = px ∧ b = py
    · obtain ⟨rfl, rfl⟩ := hab
      simp [hnew]
    · simp [hab]
  · have hany : pts.any (fun p => (Spec.plot w h px py c).pixel p.1 p.2) = pts.any (fun p => c.pixel p.1 p.2) := by
      rw [Bool.eq_iff_iff, List.any_eq_true, List.any_eq_true]
      exact exists_congr fun p => and_congr_right fun hp => by rw [hold p hp]
    rw [hrest.flag, plot_vf hin, hany, List.any_cons]
    cases c.pixel px py with
    | false => rfl
    | true => exact ite_self _
  · rw [hrest.displayCalls, List.flatMap_cons]
    exact congrArg _ (List.flatMap_congr fun p hp => by rw [hold p hp])

/-- With a fixed origin the rule's loop flips the landings of its bits, where no two coincide. -/
theorem flipsEach_blit (ho : Spec.FixedOrigin s x y) {bits : List (Nat × Nat)} (hnodup : (landings s x y bits).Nodup)
    (c : Spec.Canvas) :
    FlipsEach (landings s x y bits) c (Spec.blit s x y bits c) (Spec.blitCalls s x y bits c) := by
  induction bits generalizing c with
  | nil => exact flipsEach_nil c
  | cons bit rest ih =>
    simp only [Spec.blit, Spec.blitCalls, readAfterFlag_of_fixedOrigin_left ho,
      readAfterFlag_of_fixedOrigin_left ho.symm]
    rw [landings_cons] at hnodup ⊢
    by_cases hin : (s.getV x).toNat + bit.2 < s.cfg.displayWidth ∧ (s.getV y).toNat + bit.1 < s.cfg.displayHeight
    · rw [if_pos hin] at hnodup ⊢
      rw [if_pos hin]
      obtain ⟨hnew, hnodup⟩ := List.nodup_cons.mp hnodup
      exact (ih hnodup _).cons hin hnew
    · rw [if_neg hin] at hnodup ⊢
      rw [if_neg hin, plot_of_outside hin]
      exact ih hnodup c

/-- Settles O39: the loop queries and draws the landings, each once. -/
theorem drwQueriesThenDrawsEachPixel : Obligations.DrwQueriesThenDrawsEachPixel := by
  intro x y n s hm ho
  exact (drwCalls_eq_blitCalls hm).trans (flipsEach_blit ho (nodup_landings_setBits s x y _) _).displayCalls

/-! ### Drawing is an exclusive or -/

/-- From `s` to `t` a sprite of `rows` rows has been drawn by exclusive or: its pixels are flipped and the others kept, and
VF tells whether one of its pixels was on. -/
structure SpriteXored (x y : RegIdx) (rows : Nat) (s t : State) : Prop where
  frame : UnchangedBut [.v vF, .display] s t
  flipped : ∀ a b, Spec.Covers s x y rows a b → t.getPixel a b = !s.getPixel a b
  kept : ∀ a b, ¬Spec.Covers s x y rows a b → t.getPixel a b = s.getPixel a b
  collision : t.getV vF = 0x01#8 ↔ ∃ a b, Spec.Covers s x y rows a b ∧ s.getPixel a b = true
  noCollision : (∀ a b, Spec.Covers s x y rows a b → s.getPixel a b = false) → t.getV vF = 0x00#8

theorem execDrw_xors (hm : Spec.SpriteInMemory s n) (ho : Spec.FixedOrigin s x y) :
    ∃ t, exec (.drw x y n) s = .next t ∧ SpriteXored x y n.toNat s t := by
  obtain ⟨t, he, -, hframe, hvf, hpixels⟩ := execDrw_completes (x := x) (y := y) hm
  obtain ⟨hflip, hflag, -⟩ := flipsEach_blit ho (nodup_landings_setBits s x y n.toNat) ⟨s.getPixel, 0x00#8⟩
  have hany : (landings s x y (Spec.setBits s n.toNat)).any (fun p => s.getPixel p.1 p.2) = true ↔
      ∃ a b, Spec.Covers s x y n.toNat a b ∧ s.getPixel a b = true := by
    simp only [List.any_eq_true, Prod.exists, mem_landings_setBits]
  refine ⟨t, he, hframe, fun a b hc => ?_, fun a b hc => ?_, ?_, fun hclear => ?_⟩
  · rw [hpixels, hflip, decide_eq_true (mem_landings_setBits.mpr hc), Bool.xor_true]
  · rw [hpixels, hflip, decide_eq_false (mt mem_landings_setBits.mp hc), Bool.xor_false]
  · rw [hvf, hflag, ← hany]
    exact ite_eq_left_iff.trans (by simp)
  · rw [hvf, hflag]
    refine if_neg (mt hany.mp ?_)
    rintro ⟨a, b, hc, hon⟩
    exact absurd hon (by simp [hclear a b hc])

/-- Settles O36: a draw with a fixed origin is an exclusive or with the covered pixels. -/
theorem drwFlipsExactlyTheCoveredPixels : Obligations.DrwFlipsExactlyTheCoveredPixels := by
  intro x y n s hm ho
  obtain ⟨t, he, hdrawn⟩ := execDrw_xors hm ho
  exact ⟨t, he, fun a b => ⟨hdrawn.flipped a b, hdrawn.kept a b⟩, hdrawn.collision⟩

/-! ### The collision law (R154) -/

/-- A draw moves no sprite whose coordinates are not in VF. -/
theorem covers_iff_of_unchangedBut (h : UnchangedBut [.v vF, .display] s t) (hx : x ≠ vF) (hy : y ≠ vF) :
    Spec.Covers t x y rows a b ↔ Spec.Covers s x y rows a b := by
  have hvx : t.getV x = s.getV x := h.registers x (by simp [hx])
  have hvy : t.getV y = s.getV y := h.registers y (by simp [hy])
  have hi : t.iReg = s.iReg := h.index (by simp)
  have hmem : ∀ a, t.readMem a = s.readMem a := fun a => h.memory a (by simp)
  simp only [Spec.Covers, hvx, hvy, hi, hmem, h.config]

/-- Settles O37: the second draw covers the same pixels and flips them back. -/
theorem drawingTwiceRestoresTheBitmap : Obligations.DrawingTwiceRestoresTheBitmap := by
  intro x y n s hm hx hy
  obtain ⟨t, he, hfirst⟩ := execDrw_xors hm (.inl ⟨hx, hy⟩)
  have hm' : Spec.SpriteInMemory t n := by
    rwa [Spec.SpriteInMemory, hfirst.frame.index (by simp)]
  obtain ⟨u, he', hsecond⟩ := execDrw_xors hm' (.inl ⟨hx, hy⟩)
  have hcovers {a b : Nat} : Spec.Covers t x y n.toNat a b ↔ Spec.Covers s x y n.toNat a b :=
    covers_iff_of_unchangedBut hfirst.frame hx hy
  refine ⟨t, u, he, he', fun a b => ?_, hsecond.collision.trans (exists₂_congr fun a b => ?_),
    fun hblank => hfirst.noCollision fun a b _ => hblank a b⟩
  · by_cases hc : Spec.Covers s x y n.toNat a b
    · rw [hsecond.flipped a b (hcovers.mpr hc), hfirst.flipped a b hc, Bool.not_not]
    · rw [hsecond.kept a b (mt hcovers.mp hc), hfirst.kept a b hc]
  · rw [hcovers]
    by_cases hc : Spec.Covers s x y n.toNat a b
    · simp [hc, hfirst.flipped a b hc]
    · simp [hc, hfirst.kept a b hc]

/-- Settles O38: where the second sprite covers, the first one drew nothing on the blank bitmap. -/
theorem nonOverlappingSpritesDoNotCollide : Obligations.NonOverlappingSpritesDoNotCollide := by
  intro x y x' y' n n' s u hblank hm ho hm' ho' hdisjoint
  obtain ⟨t, he, hfirst⟩ := execDrw_xors hm ho
  refine ⟨t, he, hfirst.noCollision fun a b _ => hblank a b, fun hbitmap => ?_⟩
  obtain ⟨r, he', hsecond⟩ := execDrw_xors hm' ho'
  refine ⟨r, he', hsecond.noCollision fun a b hc => ?_⟩
  rw [hbitmap, hfirst.kept a b fun hc' => hdisjoint a b ⟨hc', hc⟩, hblank]

end Sys2Proof
end

section
/-!
SUPPORT. CLS and its one word (44_display.md R150; 30_encoding.md R84), and the device operations of every instruction
(60_exceptions.md R185, R188, R190).
-/

namespace Sys2Proof

open Sys2Proof.Machine

/-- In family 0 the low byte selects nothing by itself: a word 0x0xE0 with x ≠ 0 is unknown (R84, R87). -/
theorem decodeWord_wordX_cls : ∀ x : RegIdx, x ≠ 0#4 → decodeWord (wordX 0x00E0#16 x) = none := by decide

/-- Settles O33: a word that decodes to CLS is the word of CLS, and CLS writes the bitmap alone. -/
theorem clsBlanksTheDisplay : Obligations.ClsBlanksTheDisplay := by
  refine ⟨decodeWord_encode .cls, fun w hw => (encode_of_decodeWord hw).symm, decodeWord_wordX_cls, fun s => ?_⟩
  have he : exec .cls s = .next (advance (s.setDisplay Bitmap.blank)) := rfl
  exact ⟨_, he, State.getPixel_setDisplay_blank s, rfl, (exec_next he).unchangedBut⟩

/-- The operations listed for an instruction hold no size query: `observable` adds those. -/
theorem filter_not_isSizeQuery_deviceCalls (i : Instr) (s : State) :
    (deviceCalls i s).filter (fun c => !c.isSizeQuery) = deviceCalls i s := by
  cases i with
  | drw x y n =>
    refine List.filter_eq_self.mpr fun call hcall => ?_
    obtain ⟨e, -, he⟩ := List.mem_flatMap.mp hcall
    cases e with
    | pixel a b on =>
      obtain rfl | rfl : call = .getPixel a b ∨ call = .drawPixel a b on := by simpa [pixelCalls] using he
      all_goals rfl
    | memory | register => cases he
  | _ => rfl

/-- The instructions that call a device. -/
theorem deviceCalls_ne_nil {i : Instr} {s : State} (h : deviceCalls i s ≠ []) :
    i = .cls ∨ (∃ x, i = .skp x ∨ i = .sknp x ∨ i = .ldVxK x) ∨ (∃ x kk, i = .rndVxKk x kk) ∨
      ∃ x y n, i = .drw x y n := by
  cases i with
  | cls | skp | sknp | ldVxK | rndVxKk | drw => simp
  | _ => exact absurd rfl h

/-- What a test double sees of an instruction is its operations once the size queries are left out, and only Dxyn makes
such queries (R185). -/
theorem observable_filter {i : Instr} {s : State} {trace : List DeviceCall} (h : observable i s trace) :
    trace.filter (fun c => !c.isSizeQuery) = deviceCalls i s ∧
      (trace = deviceCalls i s ∨ ∃ x y n, i = .drw x y n) := by
  obtain rfl | ⟨x, y, n, rfl, hdrw⟩ := h
  · exact ⟨filter_not_isSizeQuery_deviceCalls i s, .inl rfl⟩
  · obtain ⟨hfilter, -⟩ := Bool.and_eq_true_iff.mp hdrw
    exact ⟨eq_of_beq hfilter, .inr ⟨x, y, n, rfl⟩⟩

/-- Settles O56: the operations of each instruction are those listed for it, and size queries come from Dxyn alone. -/
theorem deviceCallsOfEachInstruction : Obligations.DeviceCallsOfEachInstruction := fun _ =>
  ⟨rfl, rfl, fun _ => ⟨rfl, rfl, rfl⟩, fun _ _ => rfl, fun _ => deviceCalls_ne_nil, rfl, rfl,
    fun _ _ => observable_filter⟩

end Sys2Proof
end

section
/-!
SUPPORT. Keyboard and timers: the key skips, the wait for a key, and the reads and writes of the timers
(45_keys_timers.md R160 to R165).
-/

namespace Sys2Proof

open Sys2Proof.Machine

/-- Settles O40: SKP and SKNP are one skip, on the equality of two bytes and on its negation. -/
theorem keySkips : Obligations.KeySkips := fun _ _ =>
  ⟨decodeWord_wordX (f := 0xE#4) (kk := 0x9E#8) rfl, decodeWord_wordX (f := 0xE#4) (kk := 0xA1#8) rfl,
    skip_outcome rfl beq_iff_eq beq_eq_false_iff_ne, skip_outcome rfl bne_iff_ne bne_eq_false_iff_eq⟩

/-- Settles O41: one register write, of the delay timer. -/
theorem readDelayTimer : Obligations.ReadDelayTimer := fun _ _ =>
  ⟨decodeWord_wordX (f := 0xF#4) (kk := 0x07#8) rfl, setV_outcome rfl⟩

/-- Settles O42: the two branches of the wait, the whole state kept or one register write of the key. -/
theorem waitForKey : Obligations.WaitForKey := fun _ _ =>
  ⟨decodeWord_wordX (f := 0xF#4) (kk := 0x0A#8) rfl, execLdVxK_noKey, fun hkey => setV_outcome (execLdVxK_key hkey)⟩

/-- Settles O43: each instruction lists its own timer alone among the parts it writes, and no device operation. -/
theorem setTimers : Obligations.SetTimers := by
  intro x s
  have hdt : exec (.ldDtVx x) s = .next (advance (s.setDt (s.getV x))) := rfl
  have hst : exec (.ldStVx x) s = .next (advance (s.setSt (s.getV x))) := rfl
  exact ⟨decodeWord_wordX (f := 0xF#4) (kk := 0x15#8) rfl, decodeWord_wordX (f := 0xF#4) (kk := 0x18#8) rfl,
    ⟨_, hdt, rfl, rfl, (exec_next hdt).unchangedBut⟩, ⟨_, hst, rfl, rfl, (exec_next hst).unchangedBut⟩, rfl, rfl⟩

end Sys2Proof
end

section
/-!
SUPPORT. Faults: which of them each instruction raises and each step, the parts that such a fault may leave changed, and
the halted machine (60_exceptions.md R170 to R177; 40_dispatch.md R105).
-/

namespace Sys2Proof

open Sys2Proof.Machine

variable {s : State} {i : Instr} {k : FaultKind} {f : Fault} {w : List Part} {count : Nat} {access : Access}
  {body : Nat → Progress → Progress} {p : Progress}

/-! ### Where a fault comes from -/

/-- All RET can do when it faults: raise the underflow before any write (R110, R174). -/
theorem execRet_fault (h : execRet s = .fault f) : raise (.stackUnderflow s.sp) s = .fault f := by
  unfold execRet at h
  split at h
  · exact h
  · dsimp only at h
    split at h <;> cases h

/-- All CALL can do when it faults: raise the overflow before any write (R112, R173). -/
theorem execCall_fault {nnn : Addr12} (h : execCall nnn s = .fault f) : raise (.stackOverflow s.sp) s = .fault f := by
  unfold execCall at h
  split at h
  · cases h
  · exact h

/-- A run of byte accesses faults only where it leaves memory (R63). -/
theorem accessRun_fault_leaves (h : accessRun count access body p s = .fault f) :
    count ≠ 0 ∧ 0x1000 < s.iReg.toNat + count := by
  by_cases hc : count = 0 ∨ s.iReg.toNat + count ≤ 0x1000
  · cases (accessRun_completes hc).symm.trans h
  · omega

/-- The faults that an instruction run from `s` raises, each with the parts that it may leave changed (R172 to R176). -/
inductive Raises (s : State) : Instr → FaultKind → List Part → Prop where
  | ret : Raises s .ret (.stackUnderflow s.sp) []
  | call (nnn : Addr12) : Raises s (.call nnn) (.stackOverflow s.sp) []
  | drw (x y : RegIdx) (n : Nibble) :
      Raises s (.drw x y n) (.memoryOutOfRange (max s.iReg.toNat 0x1000) .read) [.draws, .v vF, .display]
  | ldVxMem (x : RegIdx) :
      Raises s (.ldVxMem x) (.memoryOutOfRange (max s.iReg.toNat 0x1000) .read) (.draws :: registersUpTo x)
  | ldBVx (x : RegIdx) :
      Raises s (.ldBVx x) (.memoryOutOfRange (max s.iReg.toNat 0x1000) .write)
        (.draws :: memoryParts s.iReg.toNat (0x1000 - s.iReg.toNat))
  | ldMemVx (x : RegIdx) :
      Raises s (.ldMemVx x) (.memoryOutOfRange (max s.iReg.toNat 0x1000) .write)
        (.draws :: memoryParts s.iReg.toNat (0x1000 - s.iReg.toNat))

/-- The faults that a step from `s` raises: those of the fetch, of the dispatch and of the instruction (R175). -/
inductive StepRaises (s : State) : FaultKind → List Part → Prop where
  | fetch {addr : Nat} (h : fetch s = .outside addr) : StepRaises s (.memoryOutOfRange addr .fetch) []
  | dispatch {raw : Word} (hf : fetch s = .word raw) (hd : decodeWord raw = none) :
      StepRaises s (.unknownInstruction raw) []
  | exec {i : Instr} {k : FaultKind} {w : List Part} (h : Raises s i k w) : StepRaises s k w

/-! ### The inversion lemmas of a fault -/

/-- A fault raised before any write leaves the machine halted and otherwise as it was (R176). -/
theorem haltedPartWay_raise (h : raise k s = .fault f) : f.kind = k ∧ Spec.HaltedPartWay k [] s f.halted := by
  obtain ⟨hkind, hhalted⟩ := raise_fault h
  exact ⟨hkind, hhalted ▸ ⟨rfl, rfl, .refl [] s⟩⟩

/-- The inversion lemma of `exec` for a fault: it is one that the instruction raises, and leaves the machine halted with
its parts alone changed. -/
theorem exec_fault (h : exec i s = .fault f) : ∃ w, Raises s i f.kind w ∧ Spec.HaltedPartWay f.kind w s f.halted := by
  cases i with
  | ret =>
    obtain ⟨hkind, hhalt⟩ := haltedPartWay_raise (execRet_fault h)
    exact ⟨[], hkind ▸ .ret, hkind ▸ hhalt⟩
  | call nnn =>
    obtain ⟨hkind, hhalt⟩ := haltedPartWay_raise (execCall_fault h)
    exact ⟨[], hkind ▸ .call nnn, hkind ▸ hhalt⟩
  | drw x y n =>
    obtain ⟨h0, hI⟩ := accessRun_fault_leaves h
    obtain ⟨u, he, hhalt, -⟩ := execDrw_faults (x := x) (y := y) (not_or.mpr ⟨h0, not_le.mpr hI⟩)
    cases he.symm.trans h
    exact ⟨_, .drw x y n, hhalt⟩
  | ldVxMem x =>
    obtain ⟨-, hI⟩ := accessRun_fault_leaves h
    obtain ⟨u, he, hhalt, -⟩ := execLdVxMem_faults (x := x) (Nat.lt_of_succ_lt_succ hI)
    cases he.symm.trans h
    exact ⟨_, .ldVxMem x, hhalt⟩
  | ldBVx x =>
    obtain ⟨h0, hI⟩ := accessRun_fault_leaves h
    obtain ⟨u, he, hhalt, -⟩ := storeRun_faults (bcdDigit (s.getV x)) h0 hI
    cases he.symm.trans h
    exact ⟨_, .ldBVx x, hhalt⟩
  | ldMemVx x =>
    obtain ⟨h0, hI⟩ := accessRun_fault_leaves h
    obtain ⟨u, he, hhalt, -⟩ := storeRun_faults (fun j => s.getV (BitVec.ofNat 4 j)) h0 hI
    cases he.symm.trans h
    exact ⟨_, .ldMemVx x, hhalt⟩
  | ldVxK x =>
    by_cases hk : s.keyLatch = 0x00#8
    · cases (execLdVxK_noKey hk).symm.trans h
    · cases (execLdVxK_key hk).symm.trans h
  | _ => cases h

/-- The inversion lemma of a step's fault (R170, R175, R176). -/
theorem step_fault_partWay (h : step s = .fault f) :
    ∃ w, StepRaises s f.kind w ∧ Spec.HaltedPartWay f.kind w s f.halted := by
  obtain ⟨-, ⟨_, hf, hr⟩ | ⟨_, hf, hd, hr⟩ | ⟨_, _, -, -, he⟩⟩ := step_fault h
  · obtain ⟨hkind, hhalt⟩ := haltedPartWay_raise hr
    exact ⟨[], hkind ▸ .fetch hf, hkind ▸ hhalt⟩
  · obtain ⟨hkind, hhalt⟩ := haltedPartWay_raise hr
    exact ⟨[], hkind ▸ .dispatch hf hd, hkind ▸ hhalt⟩
  · obtain ⟨w, hraises, hhalt⟩ := exec_fault he
    exact ⟨w, .exec hraises, hhalt⟩

/-! ### Kinds and parts -/

/-- Which instruction raises a kind of fault (R172 to R174). -/
theorem Raises.instruction (h : Raises s i k w) :
    (k = .stackUnderflow s.sp ∧ i = .ret) ∨ (k = .stackOverflow s.sp ∧ ∃ nnn, i = .call nnn) ∨
    (∃ addr, 0xFFF < addr ∧ k = .memoryOutOfRange addr .read ∧ ((∃ x y n, i = .drw x y n) ∨ ∃ x, i = .ldVxMem x)) ∨
    (∃ addr, 0xFFF < addr ∧ k = .memoryOutOfRange addr .write ∧ ((∃ x, i = .ldBVx x) ∨ ∃ x, i = .ldMemVx x)) := by
  have haddr : 0xFFF < max s.iReg.toNat 0x1000 := by omega
  cases h with
  | ret => exact .inl ⟨rfl, rfl⟩
  | call nnn => exact .inr (.inl ⟨rfl, nnn, rfl⟩)
  | drw x y n => exact .inr (.inr (.inl ⟨_, haddr, rfl, .inl ⟨x, y, n, rfl⟩⟩))
  | ldVxMem x => exact .inr (.inr (.inl ⟨_, haddr, rfl, .inr ⟨x, rfl⟩⟩))
  | ldBVx x => exact .inr (.inr (.inr ⟨_, haddr, rfl, .inl ⟨x, rfl⟩⟩))
  | ldMemVx x => exact .inr (.inr (.inr ⟨_, haddr, rfl, .inr ⟨x, rfl⟩⟩))

/-- The cause code of each kind that a step raises (R170). -/
theorem StepRaises.code (h : StepRaises s k w) :
    (∃ raw, k = .unknownInstruction raw ∧ k.code = 1) ∨
    (∃ addr access, k = .memoryOutOfRange addr access ∧ k.code = 2) ∨
    (k = .stackOverflow s.sp ∧ k.code = 3) ∨ (k = .stackUnderflow s.sp ∧ k.code = 4) := by
  cases h with
  | fetch => exact .inr (.inl ⟨_, .fetch, rfl, rfl⟩)
  | dispatch => exact .inl ⟨_, rfl, rfl⟩
  | exec h =>
    obtain ⟨rfl, -⟩ | ⟨rfl, -⟩ | ⟨addr, -, rfl, -⟩ | ⟨addr, -, rfl, -⟩ := h.instruction
    · exact .inr (.inr (.inr ⟨rfl, rfl⟩))
    · exact .inr (.inr (.inl ⟨rfl, rfl⟩))
    · exact .inr (.inl ⟨addr, .read, rfl, rfl⟩)
    · exact .inr (.inl ⟨addr, .write, rfl, rfl⟩)

/-- Only the reading fault of Dxyn may leave the bitmap changed (R176). -/
theorem StepRaises.of_display_mem (h : StepRaises s k w) (hd : Part.display ∈ w) :
    ∃ addr, k = .memoryOutOfRange addr .read := by
  cases h with
  | fetch | dispatch => cases hd
  | exec h =>
    cases h with
    | drw => exact ⟨_, rfl⟩
    | ret | call | ldVxMem | ldBVx | ldMemVx => simp at hd

/-! ### The obligations -/

/-- Settles O10: by the instruction that raises each fault. -/
theorem faultsComeOnlyFromTheirInstructions : Obligations.FaultsComeOnlyFromTheirInstructions := by
  intro i s f h
  obtain ⟨w, hraises, -⟩ := exec_fault h
  exact hraises.instruction

@[simp] theorem resetPort_faultLatch (s : State) : (resetPort s).faultLatch = none := by rw [resetPort_eq]

/-- Settles O9: the machine is halted part-way, and the bitmap is a part of a reading fault alone. -/
theorem everyFaultLatchesAndHalts : Obligations.EveryFaultLatchesAndHalts := by
  intro s f h
  obtain ⟨w, hraises, hlatch, hpc, hframe⟩ := step_fault_partWay h
  refine ⟨hlatch, hpc, hraises.code, ?_, hframe.keyLatch, hframe.audio, hframe.config, step_of_halted hlatch,
    resetPort_faultLatch f.halted⟩
  by_cases hd : Part.display ∈ w
  · exact .inr (hraises.of_display_mem hd)
  · exact .inl (hframe.display hd)

end Sys2Proof
end

section
/-!
SUPPORT. The host's calls: the invariant over each of them, any number of ticks, and the key latch (60_exceptions.md
R181, R182, R188, R191; 10_state.md R38, R43).
-/

namespace Sys2Proof

open Sys2Proof.Machine

variable {s : State}

/-- Settles O54: the invariant holds after every call that has a meaning, halted or not. -/
theorem everyHostCallKeepsTheInvariant : Obligations.EveryHostCallKeepsTheInvariant := fun _ _ _ hs h =>
  (stateInv_serve hs h).1

/-! ### Ticks -/

/-- Any number of ticks writes the timers and the audio level alone (R181, R182). -/
theorem tickTimers_iterate_eq (s : State) (k : Nat) :
    ∃ d e a, tickTimers^[k] s = ((s.setDt d).setSt e).setAudio a := by
  induction k with
  | zero => exact ⟨s.dt, s.st, s.audio, rfl⟩
  | succ k ih =>
    obtain ⟨d, e, a, h⟩ := ih
    exact ⟨countDown d, countDown e, countDown e != 0x00#8, by rw [Function.iterate_succ_apply', h]; rfl⟩

/-- A timer that every tick counts down has lost `k` after `k` ticks, or is 0 (R181). -/
theorem timer_iterate_toNat {timer : State → Byte} (htick : ∀ t, timer (tickTimers t) = countDown (timer t)) (s : State)
    (k : Nat) : (timer (tickTimers^[k] s)).toNat = (timer s).toNat - k := by
  induction k with
  | zero => rfl
  | succ k ih => rw [Function.iterate_succ_apply', htick, countDown_toNat, ih, Nat.sub_sub]

theorem toNat_pos_iff_ne_zero (b : Byte) : 0 < b.toNat ↔ b ≠ 0x00#8 := by
  rw [Nat.pos_iff_ne_zero, ← BitVec.toNat_ne_iff_ne]
  rfl

/-- The level after a tick follows the sound timer after it (R182). -/
theorem tickTimers_audio_iff (s : State) : (tickTimers s).audio = true ↔ 0 < (tickTimers s).st.toNat := by
  rw [toNat_pos_iff_ne_zero]
  exact bne_iff_ne

/-- The one Audio operation of a tick, by the sound timer after it (R182). -/
theorem tickCalls_eq (s : State) :
    tickCalls s = [if 0 < (tickTimers s).st.toNat then .startSound else .stopSound] := by
  simp only [tickCalls, toNat_pos_iff_ne_zero, ite_not]
  split <;> rfl

/-- Settles O44: both timers count down with floor 0, and the last tick sets the level. -/
theorem ticksCountDownToZero : Obligations.TicksCountDownToZero := by
  intro s k
  refine ⟨timer_iterate_toNat (timer := State.dt) (fun _ => rfl) s k,
    timer_iterate_toNat (timer := State.st) (fun _ => rfl) s k, fun hk => ?_, ?_, ?_, tickCalls_eq s⟩
  · obtain ⟨j, rfl⟩ := Nat.exists_eq_add_one.mpr hk
    rw [Function.iterate_succ_apply']
    exact tickTimers_audio_iff _
  · obtain ⟨d, e, a, h⟩ := tickTimers_iterate_eq s k
    rw [h]
    rfl
  · obtain ⟨d, e, a, h⟩ := tickTimers_iterate_eq s k
    rw [h]
    exact (unchangedBut_setDt d s (.head _)).trans (unchangedBut_setSt e _ (.tail _ (.head _)))

/-! ### The key latch -/

/-- Settles O51: the latch put back is the state as it was, and Fx0A copies the latch. -/
theorem setKeyWritesTheLatch : Obligations.SetKeyWritesTheLatch := by
  refine fun code s x => ⟨rfl, rfl, .refl [] s, fun hcode => ?_⟩
  have hkey : (setKey code s).keyLatch ≠ 0x00#8 := hcode
  obtain ⟨t, he, hv, -⟩ := setV_outcome (i := .ldVxK x) (execLdVxK_key hkey)
  exact ⟨t, he, hv⟩

end Sys2Proof
end

section
/-!
SUPPORT. Boot: the initialisations that have a meaning are the orders of the three devices, and the machine constructed
after them is the power-on state (60_exceptions.md R187, R194; 70_reset_and_hazards.md R200, R206).
-/

namespace Sys2Proof

open Sys2Proof.Machine

variable {c : Config} {order : List Device} {u v : Devices} {s : State}

theorem perm_allDevices_iff :
    order.Perm [.display, .keyboard, .audio] ↔
      order.Nodup ∧ .display ∈ order ∧ .keyboard ∈ order ∧ .audio ∈ order := by
  have hnodup : [Device.display, .keyboard, .audio].Nodup := by decide
  constructor
  · intro h
    simp [h.mem_iff, h.nodup_iff.mpr hnodup]
  · rintro ⟨hn, hd, hk, ha⟩
    refine (List.perm_ext_iff_of_nodup hn hnodup).mpr fun d => ?_
    cases d <;> simp [hd, hk, ha]

/-- `reset()` at power-on changes nothing: the font region reads as the font already (R200, R201). -/
theorem resetPort_powerOn (c : Config) : resetPort (State.powerOn c) = State.powerOn c :=
  congrArg (State.setLatch · none) <|
    State.writeBytes_unlisted c.fontImage 0 (State.powerOn c) rfl fun j _ => by rw [Nat.zero_add]; rfl

/-- The devices after all three initialisations are those of the power-on state (R187, R200). -/
theorem construct_of_initAll (h : u.initAll order = some v)
    (hall : .display ∈ order ∧ .keyboard ∈ order ∧ .audio ∈ order) : construct c v = some (State.powerOn c) := by
  obtain ⟨hinit, -, -, hdisplay, hkey, haudio⟩ := Devices.initAll_some h
  obtain ⟨hd, hk, ha⟩ := hall
  rw [if_pos hd] at hdisplay
  rw [if_pos hk] at hkey
  rw [if_pos ha] at haudio
  rw [construct, if_pos (by simp [hinit, hd, hk, ha]), hdisplay, hkey, haudio]
  exact congrArg some (resetPort_powerOn c)

theorem boot_of_perm (hu : u.initialized = []) (h : order.Perm [.display, .keyboard, .audio]) :
    boot c order u = some (State.powerOn c) := by
  obtain ⟨hn, hall⟩ := perm_allDevices_iff.mp h
  obtain ⟨v, hv⟩ := Devices.initAll_isSome (u := u) hn (by simp [hu])
  rw [boot, hv]
  exact construct_of_initAll hv hall

/-- A machine comes of boot only if each device was initialised once (R194). -/
theorem perm_of_boot (hu : u.initialized = []) (h : boot c order u = some s) :
    order.Perm [.display, .keyboard, .audio] := by
  unfold boot at h
  split at h
  · next v hv =>
    obtain ⟨hinit, hn, -⟩ := Devices.initAll_some hv
    unfold construct at h
    split at h
    · next hall => exact perm_allDevices_iff.mpr ⟨hn, by simpa [hinit, hu] using hall⟩
    · cases h
  · cases h

/-- Settles O58: boot gives a machine exactly for the orders of the three devices. -/
theorem bootGivesThePowerOnState : Obligations.BootGivesThePowerOnState := fun _ _ _ hu =>
  ⟨boot_of_perm hu, fun hn => Option.eq_none_iff_forall_ne_some.mpr fun _ hs => hn (perm_of_boot hu hs),
    fun _ _ => rfl⟩

end Sys2Proof
end

section
/-!
SUPPORT. The self-jump is a fixed point of the step, `reset()` is power-on but for what it leaves alone, and `load_rom`
writes its own bytes of memory alone (41_flow.md R111; 70_reset_and_hazards.md R201 to R206, R212).
-/

namespace Sys2Proof

open Sys2Proof.Machine

variable {w : List Part} {s : State}

/-! ### The self-jump -/

/-- A step that leaves the state as it is does so any number of times. -/
theorem run_of_step_eq_self {M : Host.Core} {s : M.State} (h : M.step s = .next s) (k : Nat) : M.run k s = .next s := by
  induction k with
  | zero => rfl
  | succ k ih => rw [Host.Core.run, h]; exact ih

/-- A self-jump sets pc to the value it has (R111, R212). -/
theorem step_of_atSelfJump (h : AtSelfJump s) : step s = .next s := by
  obtain ⟨hl, w, nnn, hf, hd, hpc⟩ := h
  calc step s = exec (.jp nnn) s := step_of_decodeWord_some hl hf hd
    _ = .next (s.setPc (immAddr nnn)) := rfl
    _ = .next s := by rw [hpc]; rfl

/-- Settles O16: the self-jump is a fixed point of the step. -/
theorem selfJumpIsAFixedPoint : Obligations.SelfJumpIsAFixedPoint := fun _ k h =>
  run_of_step_eq_self (M := core) (step_of_atSelfJump h) k

/-! ### `reset()` -/

/-- `reset()` is power-on, but for memory, the key latch, the audio level and the count of free values (R201, R203). -/
theorem resetPort_eq_powerOn (s : State) :
    ∃ m, resetPort s =
      { State.powerOn s.cfg with mem := m, keyLatch := s.keyLatch, audio := s.audio, draws := s.draws } :=
  ⟨_, resetPort_eq s⟩

/-- Settles O49: the power-on values are the zeros, and `readMem_resetPort` says what memory holds. -/
theorem resetPortReinitialises : Obligations.ResetPortReinitialises := by
  intro s _
  have hmem := readMem_resetPort s
  obtain ⟨m, hm⟩ := resetPort_eq_powerOn s
  rw [hm] at hmem ⊢
  exact ⟨getV_powerOn s.cfg, rfl, rfl, rfl, getStack_powerOn s.cfg, rfl, rfl, fun _ _ => rfl, rfl, hmem, rfl, rfl, rfl⟩

/-! ### `load_rom` -/

/-- Another memory that reads the same outside the parts listed changes nothing else. -/
theorem unchangedBut_setMem (m : Memory) (s : State)
    (h : ∀ a, Part.memory a ∉ w → (s.setMem m).readMem a = s.readMem a) : UnchangedBut w s (s.setMem m) := by
  constructor
  case memory => exact h
  all_goals intros; rfl

/-- A run of writes changes the bytes it writes alone (R204). -/
theorem unchangedBut_writeBytes (a : Nat) (bytes : List Byte) (s : State) :
    UnchangedBut (memoryParts a bytes.length) s (s.writeBytes a bytes) := by
  rw [State.writeBytes_eq]
  refine unchangedBut_setMem _ s fun k hk => ?_
  rw [← State.writeBytes_eq, State.readMem_writeBytes, if_neg]
  rintro ⟨hle, hlt⟩
  obtain ⟨j, rfl⟩ := Nat.exists_eq_add_of_le hle
  exact hk (memory_mem_memoryParts (Nat.add_lt_add_iff_left.mp hlt))

@[simp] theorem writeBytes_pc (a : Nat) (bytes : List Byte) (s : State) : (s.writeBytes a bytes).pc = s.pc := by
  rw [State.writeBytes_eq]; rfl

@[simp] theorem writeBytes_cfg (a : Nat) (bytes : List Byte) (s : State) : (s.writeBytes a bytes).cfg = s.cfg := by
  rw [State.writeBytes_eq]; rfl

/-- The byte a run of writes leaves at its `j`-th address (R66, R204). -/
theorem readMem_writeBytes_add (a : Nat) {bytes : List Byte} (s : State) {j : Nat} (hj : j < bytes.length) :
    (s.writeBytes a bytes).readMem (a + j) = bytes.getD j 0x00#8 := by
  rw [State.readMem_writeBytes, if_pos (by omega), Nat.add_sub_cancel_left]

/-- `reset()` and a run of writes, in either order, agree but for the memory's list (R206). -/
theorem resetPort_writeBytes_eq (a : Nat) (bytes : List Byte) (s : State) :
    resetPort (s.writeBytes a bytes) =
      ((resetPort s).writeBytes a bytes).setMem (resetPort (s.writeBytes a bytes)).mem := by
  obtain ⟨m, hm⟩ := resetPort_eq_powerOn s
  rw [resetPort_eq (s.writeBytes a bytes), State.writeBytes_eq bytes a s, State.writeBytes_eq bytes a (resetPort s), hm]
  rfl

/-- Every byte reads the same whether `reset()` comes before or after writes above the font region (R201, R206). -/
theorem readMem_resetPort_writeBytes {a : Nat} (hfont : s.cfg.fontImage.length ≤ a) (bytes : List Byte) (k : Nat) :
    (resetPort (s.writeBytes a bytes)).readMem k = ((resetPort s).writeBytes a bytes).readMem k := by
  simp only [readMem_resetPort, writeBytes_cfg, State.readMem_writeBytes]
  by_cases hk : k < s.cfg.fontImage.length
  · have hout : ¬(a ≤ k ∧ k < a + bytes.length) := by omega
    rw [if_pos hk, if_neg hout, if_pos hk]
  · rw [if_neg hk, if_neg hk]

/-- `load_rom` and `reset()` commute as far as any read can tell (R206). -/
theorem unchangedBut_writeBytes_resetPort {a : Nat} (hfont : s.cfg.fontImage.length ≤ a) (bytes : List Byte) :
    UnchangedBut [] ((resetPort s).writeBytes a bytes) (resetPort (s.writeBytes a bytes)) := by
  rw [resetPort_writeBytes_eq]
  refine unchangedBut_setMem _ _ fun k _ => ?_
  rw [← resetPort_writeBytes_eq, readMem_resetPort_writeBytes hfont]

/-- Settles O50: a ROM that fits is a run of writes from 0x200, above the font region. -/
theorem loadRomCopiesFrom0x200 : Obligations.LoadRomCopiesFrom0x200 := by
  refine fun bytes s => ⟨fun hlen => ?_, fun hlen => loadRom_refused (Nat.add_lt_add_left hlen romOrigin) s⟩
  have hfits : romOrigin + bytes.length ≤ memSize := Nat.add_le_add_left hlen romOrigin
  refine ⟨_, loadRom_next hfits s, fun j => readMem_writeBytes_add romOrigin s, writeBytes_pc ..,
    unchangedBut_writeBytes romOrigin bytes s, fun hfont => ⟨_, loadRom_next hfits (resetPort s), ?_,
      unchangedBut_writeBytes_resetPort (of_decide_eq_true hfont) bytes⟩⟩
  rw [resetPort_writeBytes_eq]
  rfl

end Sys2Proof
end
